-- ==== Sys2Proof/Word.lean ====
section
/-! DEFINITION. The parallel words of the block's ports and registers (00_scope.md R8, R9, R11): one name per width.
Bits are numbered from 0 at the least significant end (R11), as `BitVec` numbers them. -/
namespace Sys2Proof

/-- `cmd_word[63:0]`: CMD_WIDTH = 64 (R9, R53). -/
abbrev CmdWord := BitVec 64

/-- FRAME_BITS's value (R8): the width of a frame, here and as `Config.frameBits` in `params`. -/
@[simp] abbrev frameBits : Nat := 52

/-- A protocol frame (R8, R63). -/
abbrev Frame := BitVec frameBits

/-- `el_word[16:0]`: EL_WIDTH = 17 (R9, R70). -/
abbrev ElWord := BitVec 17

/-- A temperature, signed Q8.8: TEMP_WIDTH = 16 (R9, R57). -/
abbrev Temp := BitVec 16

/-- SEQ_IDX: SEQ_IDX_WIDTH = 7 (R9, R23). -/
abbrev SeqIdx := BitVec 7

/-- An element's duration in microseconds: DUR_WIDTH = 12 (R9, R70). -/
abbrev Duration := BitVec 12

/-- `carrier_hz`: CARRIER_WIDTH = 16 (R9, R74). -/
abbrev CarrierHz := BitVec 16

/-- One 4-bit nibble of a frame (R11). -/
abbrev Nibble := BitVec 4

end Sys2Proof
end

