-- ==== Sys2Proof/Syntax.lean ====
section
/-! DEFINITION. The four commands of spec/opcode_table.json and their operands (30_encoding.md R54 to R59). -/
namespace Sys2Proof

/-- The climate mode (R13, R56), in code order. -/
inductive Mode where
  | off | cool | heat | dry
deriving DecidableEq, Repr, Inhabited

/-- The fan speed (R13, R56), in code order. -/
inductive Fan where
  | low | medium | high | quiet
deriving DecidableEq, Repr, Inhabited

/-- The swing setting (R13, R56), in code order. -/
inductive Swing where
  | off | horizontal
deriving DecidableEq, Repr, Inhabited

/-- LogicalClimateState (R14, R55): what a format S command carries, and what the host keeps. There is no power field
(90_conflicts.md C7). `temp` is the signed Q8.8 pattern of R57. -/
structure Climate where
  mode  : Mode
  fan   : Fan
  swing : Swing
  temp  : Temp
deriving DecidableEq, Repr, Inhabited

/-- The reserved bits of format S (R55): `hi` is `cmd_word[61:24]` and `lo` is `cmd_word[7:5]`. -/
structure RsvdS where
  hi : BitVec 38
  lo : BitVec 3
deriving DecidableEq, Repr, Inhabited

/-- A command (R54). Reserved bits are kept, so that a command is its word and a disassembler can print them (R77);
no meaning reads them (R60). -/
inductive Instr where
  /-- NOP, format N (R59): 62 reserved bits. -/
  | nop (rsvd : BitVec 62)
  /-- ENCODE, format S (R55). -/
  | encode (climate : Climate) (rsvd : RsvdS)
  /-- SEQUENCE, format F (R58): FRM and ten reserved bits. -/
  | sequence (frame : Frame) (rsvd : BitVec 10)
  /-- TRANSMIT, format S (R55). -/
  | transmit (climate : Climate) (rsvd : RsvdS)
deriving DecidableEq, Repr, Inhabited

end Sys2Proof
end

