-- ==== Sys2Proof/WellFormed.lean ====
section
/-! DEFINITION. The one form check the spec gives a command: "Software should write 0 to every RSVD bit" (R60). It is a
duty of software, not of the block: every command decodes and runs whether or not it meets it (R60, R61, R78), and
nothing in Decode or Machine consults it. -/
namespace Sys2Proof

/-- Format S's reserved bits are all 0 (R60). -/
def RsvdS.isZero (r : RsvdS) : Bool := r.hi == 0#38 && r.lo == 0#3

/-- Every reserved bit of the command is 0 (R60): the words R75's assembler writes. -/
def Instr.wellFormed : Instr → Bool
  | .nop r        => r == 0#62
  | .encode _ r   => r.isZero
  | .sequence _ r => r == 0#10
  | .transmit _ r => r.isZero

/-- The reserved bits of format S, all 0. -/
def RsvdS.zero : RsvdS := ⟨0#38, 0#3⟩

end Sys2Proof
end

