-- ==== Sys2Proof/Decode.lean ====
section
/-! DEFINITION. The command word: the decoder of 30_encoding.md R61, total on every 64-bit word (no encoding is illegal,
R78, so there is nothing to reject), and the encoder written from the same tables (R54 to R59). -/
namespace Sys2Proof

/-- MODE codes (R56). -/
def Mode.code : Mode → BitVec 2
  | .off => 0b00#2 | .cool => 0b01#2 | .heat => 0b10#2 | .dry => 0b11#2

/-- FAN codes (R56). -/
def Fan.code : Fan → BitVec 2
  | .low => 0b00#2 | .medium => 0b01#2 | .high => 0b10#2 | .quiet => 0b11#2

/-- SWING codes (R56). -/
def Swing.code : Swing → BitVec 1
  | .off => 0#1 | .horizontal => 1#1

/-- The mode a code names (R56): every 2-bit pattern is a value. -/
def modeOf (b : BitVec 2) : Mode :=
  if b = 0b00#2 then .off else if b = 0b01#2 then .cool else if b = 0b10#2 then .heat else .dry

/-- The fan speed a code names (R56): no pattern is unrecognised. -/
def fanOf (b : BitVec 2) : Fan :=
  if b = 0b00#2 then .low else if b = 0b01#2 then .medium else if b = 0b10#2 then .high else .quiet

/-- The swing a code names (R56). -/
def swingOf (b : BitVec 1) : Swing :=
  if b = 0#1 then .off else .horizontal

/-- OP = `cmd_word[63:62]` (R53). -/
def opField (w : CmdWord) : BitVec 2 := w.extractLsb' 62 2

/-- Format S's operands (R55): MODE `[1:0]`, FAN `[3:2]`, SWING `[4]`, TEMP `[23:8]`. -/
def climateField (w : CmdWord) : Climate where
  mode  := modeOf (w.extractLsb' 0 2)
  fan   := fanOf (w.extractLsb' 2 2)
  swing := swingOf (w.extractLsb' 4 1)
  temp  := w.extractLsb' 8 16

/-- Format S's reserved bits (R55): `[61:24]` and `[7:5]`. -/
def rsvdSField (w : CmdWord) : RsvdS where
  hi := w.extractLsb' 24 38
  lo := w.extractLsb' 5 3

/-- Format F's FRM (R58): `[51:0]`. -/
def frameField (w : CmdWord) : Frame := w.extractLsb' 0 frameBits

/-- The decoder (R61). -/
def decodeWord (w : CmdWord) : Instr :=
  if opField w = 0b00#2 then .nop (w.extractLsb' 0 62)
  else if opField w = 0b01#2 then .encode (climateField w) (rsvdSField w)
  else if opField w = 0b10#2 then .sequence (frameField w) (w.extractLsb' 52 10)
  else .transmit (climateField w) (rsvdSField w)

/-- The 62 payload bits of format S (R55), most significant field first. -/
def payloadS (c : Climate) (r : RsvdS) : BitVec 62 :=
  r.hi ++ c.temp ++ r.lo ++ c.swing.code ++ c.fan.code ++ c.mode.code

/-- The word of a command (R54, R55, R58, R59). -/
def encodeInstr : Instr → CmdWord
  | .nop r        => 0b00#2 ++ r
  | .encode c r   => 0b01#2 ++ payloadS c r
  | .sequence f r => 0b10#2 ++ (r ++ f)
  | .transmit c r => 0b11#2 ++ payloadS c r

/-- What the decoder reads from a command of `nbits` bits numbered as spec/opcode_table.json numbers them. A command is
one 64-bit parallel word with no byte order (R41, R53, R62), so the table's bit i is `cmd_word[i]`; the bits above
`nbits` are 0. -/
def decodeTableWord (nbits w : Nat) : Option Instr :=
  some (decodeWord (BitVec.ofNat 64 (w % 2 ^ nbits)))

end Sys2Proof
end

