-- ==== Sys2Proof/Config.lean ====
section
/-! DEFINITION. What an implementation fixes (00_scope.md R8 and the OPEN parameters of 92_eei_decisions.md: the protocol
literals, the field codes, TIE_MODE, CLK_HZ) and the free values the spec leaves open. The literals' own values stand in
Machine/Params.lean. -/
namespace Sys2Proof

/-- TIE_MODE (92_eei_decisions.md D8): how an exact x.5 temperature rounds. DEDUCED (notes/assumptions/8.md): `even`
goes to the even neighbour, `down` to the lower one; the spec's own choice is `up`. -/
inductive TieMode where
  | up | even | down
deriving DecidableEq, Repr, Inhabited

/-- The protocol constants of R8 and the codes of R82 to R85, each a named field because the source's literals are
unaudited (D20). The shell's widths (R9) are the types of Word.lean. -/
structure Config where
  /-- FRAME_BITS: how many bits of a frame are sent. The width of the type `Frame` is its value in `params`
  (notes/assumptions/9.md). -/
  frameBits : Nat
  /-- TEMP_MIN, the source's `FRAL_TEMP_MIN`, in °C. -/
  tempMin : Int
  /-- TEMP_MIN_COOL, in °C. -/
  tempMinCool : Int
  /-- TEMP_MAX, in °C. -/
  tempMax : Int
  /-- TIE_MODE (D8). -/
  tieMode : TieMode
  /-- CARRIER_HZ. -/
  carrierHz : CarrierHz
  /-- HDR_MARK_US. -/
  hdrMarkUs : Duration
  /-- HDR_SPACE_US. -/
  hdrSpaceUs : Duration
  /-- BIT_MARK_US. -/
  bitMarkUs : Duration
  /-- ZERO_SPACE_US. -/
  zeroSpaceUs : Duration
  /-- ONE_SPACE_US. -/
  oneSpaceUs : Duration
  /-- FTR_MARK_US. -/
  ftrMarkUs : Duration
  /-- FTR_SPACE_US. -/
  ftrSpaceUs : Duration
  /-- END_MARK_US. -/
  endMarkUs : Duration
  /-- REPEAT_GAP_US: never emitted by the block (R106); it does not fit a `Duration` (R70). -/
  repeatGapUs : Nat
  /-- `mode_fan` for HEAT with HIGH (R82). -/
  mfHeatHigh : BitVec 8
  /-- `mode_fan` for HEAT with LOW, MEDIUM or QUIET (R82). -/
  mfHeatLow : BitVec 8
  /-- `mode_fan` for DRY (R82). -/
  mfDry : BitVec 8
  /-- `mode_fan` for COOL with HIGH (R82). -/
  mfCoolHigh : BitVec 8
  /-- `mode_fan` for COOL with MEDIUM (R82). -/
  mfCoolMedium : BitVec 8
  /-- `mode_fan` for COOL with LOW or QUIET (R82). -/
  mfCoolLow : BitVec 8
  /-- `mode_fan` for OFF, a placeholder (R82). -/
  mfOff : BitVec 8
  /-- POWER for mode OFF (R65, R83). -/
  powerOff : BitVec 4
  /-- POWER for every other mode (R65, R83). -/
  powerOn : BitVec 4
  /-- SWING_CODE for OFF (R67, R85). -/
  swingOff : BitVec 3
  /-- SWING_CODE for HORIZONTAL, "slow" (R67, R85). -/
  swingHorizontal : BitVec 3
  /-- SWING_CODE "fast": representable, never made by the encoder (R67). -/
  swingFast : BitVec 3
  /-- TIMER_EN of every encoded frame (R84). -/
  timerEn : BitVec 1
  /-- TIMER_HOURS of every encoded frame (R84). -/
  timerHours : BitVec 5
deriving DecidableEq, Repr

/-- The input ports as sampled at one rising edge of `clk` (R32, R119). -/
structure Inputs where
  rst      : Bool
  cmdValid : Bool
  cmdWord  : CmdWord
  elReady  : Bool
deriving DecidableEq, Repr, Inhabited

/-- FREE VALUE (notes/assumptions/2.md): what the host and the transmitter drive at an edge for which State lists no
sample; any inputs are within their liberties (R133). -/
opaque Config.freeInputs : Nat → Inputs

/-- FREE VALUE (notes/assumptions/6.md): `el_word` in RUN when SEQ_IDX > 108, where `elem` is not defined
(93_implementation_defined.md U1); an element is a function of FRAME and SEQ_IDX (R36). -/
opaque Config.freeElWord : Frame → SeqIdx → ElWord

/-- FREE VALUE (notes/assumptions/7.md): the 82 register bits before the first reset (R142, U1). -/
opaque Config.freePowerOn : BitVec 82

/-- FREE VALUE (notes/assumptions/18.md): CLK_HZ, the frequency of `clk`; no rule reads it (R154, U13). -/
opaque Config.clkHz : Nat

end Sys2Proof
end

