-- ==== Sys2Proof/Machine/Params.lean ====
section
/-! DEFINITION. The values of the protocol constants (00_scope.md R8; the codes of 40_encoder.md R82 to R85; the shell's
parameters of R9), each at the source's value. -/
namespace Sys2Proof.Machine

/-- The source's values (R8, R82 to R85, D8, D20). -/
def params : Config where
  frameBits       := Sys2Proof.frameBits
  tempMin         := 15
  tempMinCool     := 17
  tempMax         := 30
  tieMode         := .up
  carrierHz       := 38000#16
  hdrMarkUs       := 511#12
  hdrSpaceUs      := 3492#12
  bitMarkUs       := 511#12
  zeroSpaceUs     := 548#12
  oneSpaceUs      := 1540#12
  ftrMarkUs       := 511#12
  ftrSpaceUs      := 3492#12
  endMarkUs       := 511#12
  repeatGapUs     := 100000
  mfHeatHigh      := 0x03#8
  mfHeatLow       := 0x01#8
  mfDry           := 0x24#8
  mfCoolHigh      := 0x08#8
  mfCoolMedium    := 0x11#8
  mfCoolLow       := 0x22#8
  mfOff           := 0x22#8
  powerOff        := 0x0#4
  powerOn         := 0x3#4
  swingOff        := 0x2#3
  swingHorizontal := 0x4#3
  swingFast       := 0x0#3
  timerEn         := 0#1
  timerHours      := 0#5

/-- TEMP_FRAC_BITS (R9). -/
def tempFracBits : Nat := 8

/-- 1 °C in the units of a signed Q8.8 temperature: 256 (R57, R86). -/
def q88One : Int := 2 ^ tempFracBits

/-- SEQ_LEN (R9, R100): header 2, two elements per frame bit, footer 3. -/
def seqLen (c : Config) : Nat := 2 * c.frameBits + 5

/-- The index of END_MARK, 108 (R100, R109). -/
def lastIdx : SeqIdx := BitVec.ofNat 7 (seqLen params - 1)

end Sys2Proof.Machine
end

