-- ==== Sys2Proof/Machine/PulseSequencer.lean ====
section
/-! DEFINITION. The Pulse Sequencer (41_sequencer.md R100 to R107, R111) and the element word (30_encoding.md R70 to R72). -/
namespace Sys2Proof.Machine

/-- Element kinds (R71), in KIND order. -/
inductive ElemKind where
  | hdrMark | hdrSpace | bitMark | zeroSpace | oneSpace | ftrMark | ftrSpace | endMark
deriving DecidableEq, Repr

/-- KIND (R71). -/
def ElemKind.code : ElemKind → BitVec 3
  | .hdrMark => 0#3 | .hdrSpace => 1#3 | .bitMark => 2#3 | .zeroSpace => 3#3
  | .oneSpace => 4#3 | .ftrMark => 5#3 | .ftrSpace => 6#3 | .endMark => 7#3

/-- LEVEL (R71, R72): 1 = mark, 0 = space. -/
def ElemKind.level : ElemKind → BitVec 1
  | .hdrMark => 1#1 | .hdrSpace => 0#1 | .bitMark => 1#1 | .zeroSpace => 0#1
  | .oneSpace => 0#1 | .ftrMark => 1#1 | .ftrSpace => 0#1 | .endMark => 1#1

/-- LAST (R71, R72): 1 only on END_MARK. -/
def ElemKind.last : ElemKind → BitVec 1
  | .endMark => 1#1
  | _        => 0#1

/-- DUR in microseconds (R71, R8). -/
def ElemKind.dur (c : Config) : ElemKind → Duration
  | .hdrMark => c.hdrMarkUs | .hdrSpace => c.hdrSpaceUs | .bitMark => c.bitMarkUs | .zeroSpace => c.zeroSpaceUs
  | .oneSpace => c.oneSpaceUs | .ftrMark => c.ftrMarkUs | .ftrSpace => c.ftrSpaceUs | .endMark => c.endMarkUs

/-- `word(e)` (R107): LAST `[16]`, KIND `[15:13]`, LEVEL `[12]`, DUR `[11:0]` (R70). -/
def elemWord (c : Config) (k : ElemKind) : ElWord := k.last ++ k.code ++ k.level ++ k.dur c

/-- `el_last` (R70). -/
def elLast (w : ElWord) : BitVec 1 := w.extractLsb' 16 1
/-- `el_kind` (R70). -/
def elKind (w : ElWord) : BitVec 3 := w.extractLsb' 13 3
/-- `el_level` (R70). -/
def elLevel (w : ElWord) : BitVec 1 := w.extractLsb' 12 1
/-- `el_dur` (R70). -/
def elDur (w : ElWord) : Duration := w.extractLsb' 0 12

/-- The space of data bit k (R102), which carries frame bit `FRAME_BITS - 1 - k` (R43). -/
def dataSpace (c : Config) (f : Frame) (k : Nat) : ElemKind :=
  if f.getLsbD (c.frameBits - 1 - k) then .oneSpace else .zeroSpace

/-- `elem(f, n)` (R100) for n below SEQ_LEN; for any other n it is not defined. -/
def elemAt (c : Config) (f : Frame) (n : Nat) : Option ElemKind :=
  if n = 0 then some .hdrMark
  else if n = 1 then some .hdrSpace
  else if n ≤ 2 * c.frameBits + 1 then
    if n % 2 = 0 then some .bitMark else some (dataSpace c f ((n - 2) / 2))
  else if n = 2 * c.frameBits + 2 then some .ftrMark
  else if n = 2 * c.frameBits + 3 then some .ftrSpace
  else if n = 2 * c.frameBits + 4 then some .endMark
  else none

/-- `elem(f, i)` at a value of SEQ_IDX. -/
def elem (c : Config) (f : Frame) (i : SeqIdx) : Option ElemKind := elemAt c f i.toNat

/-- `word(elem(f, i))`, and a free value where `elem` is not defined (93_implementation_defined.md U1). -/
def elemWordAt (c : Config) (f : Frame) (i : SeqIdx) : ElWord :=
  match elem c f i with
  | some k => elemWord c k
  | none   => Config.freeElWord f i

/-- The PulseSequence of a frame by the source's three steps: header (R101), data (R102), footer (R103). -/
def pulseSequence (c : Config) (f : Frame) : List ElemKind :=
  [.hdrMark, .hdrSpace]
    ++ (List.range c.frameBits).flatMap (fun k => [.bitMark, dataSpace c f k])
    ++ [.ftrMark, .ftrSpace, .endMark]

/-- The on-air time of a list of elements in microseconds (R111). -/
def onAirUs (c : Config) (l : List ElemKind) : Nat := (l.map fun k => (k.dur c).toNat).sum

/-- The number of 1 bits of a frame (R12). -/
def popcount (f : Frame) : Nat := ((List.range frameBits).filter fun k => f.getLsbD k).length

end Sys2Proof.Machine
end

