-- ==== Sys2Proof/Machine/State.lean ====
section
/-! DEFINITION. The state of the block (10_state.md R22 to R30, R39) as plain data, with the partners' side of its ports,
and the state after reset (70_reset_and_hazards.md R140). -/
namespace Sys2Proof.Machine

/-- PHASE (R22): IDLE = 0, RUN = 1. -/
inductive Phase where
  | idle | run
deriving DecidableEq, Repr, Inhabited

/-- The register tuple, the whole state of the block (R20, R39). -/
structure Regs where
  /-- PHASE (R22). -/
  phase    : Phase
  /-- SEQ_IDX, 7 bits (R23). -/
  seqIdx   : SeqIdx
  /-- FRAME, 52 bits (R24). -/
  frame    : Frame
  /-- OUT_MODE, 2 bits (R25). -/
  outMode  : Mode
  /-- OUT_FAN, 2 bits (R26). -/
  outFan   : Fan
  /-- OUT_SWING, 1 bit (R27). -/
  outSwing : Swing
  /-- OUT_TEMP, 16 bits, signed Q8.8 (R28). -/
  outTemp  : Temp
  /-- RES_VALID, 1 bit (R29). -/
  resValid : Bool
deriving DecidableEq, Repr, Inhabited

/-- The machine: the block's registers, and the model's record of its two partners (notes/assumptions/1.md, 2.md, 3.md). -/
structure State where
  /-- The block (R39). -/
  regs    : Regs
  /-- The samples of the input ports at the coming edges, next edge first (R32). The model's own. -/
  inputs  : List Inputs
  /-- How many samples have been drawn from `Config.freeInputs`. The model's own. -/
  freeIdx : Nat
  /-- The element trace (R120): the elements delivered so far, in edge order. The model's own. -/
  trace   : List ElWord
deriving DecidableEq, Repr, Inhabited

/-- Why the machine faults: nothing does. "The block raises no exception" (R125), so the type has no constructor. Safe. -/
inductive Fault where
deriving DecidableEq, Repr

/-- Why an instruction has no meaning. -/
inductive Refusal where
  /-- Raised by an arm of `exec` whose instruction has no meaning yet: no arm is left so, so nothing raises it. Safe. -/
  | notModelled (mnemonic : String)
deriving DecidableEq, Repr

/-- RESET (R140). -/
def Regs.reset : Regs where
  phase    := .idle
  seqIdx   := 0#7
  frame    := 0x0000000000000#52
  outMode  := .off
  outFan   := .low
  outSwing := .off
  outTemp  := 0x0000#16
  resValid := false

/-- The machine right after reset (R140), no sample listed and nothing delivered (DESIGN CHOICE, notes/assumptions/21.md). -/
def State.reset : State where
  regs    := Regs.reset
  inputs  := []
  freeIdx := 0
  trace   := []

end Sys2Proof.Machine
end

