-- ==== Sys2Proof/Machine/Flags.lean ====
section
/-! DEFINITION. The two status flags (10_state.md R34) and the register codes the outputs show. The third flag of R34, the
`last` bit of `el_word`, is `elLast` of Machine/PulseSequencer.lean. There are no condition codes. -/
namespace Sys2Proof.Machine

/-- PHASE as its bit (R22). -/
def Phase.code : Phase → BitVec 1
  | .idle => 0#1
  | .run  => 1#1

/-- `status_busy` (R33, R34). -/
def statusBusy (r : Regs) : Bool := r.phase == .run

/-- `status_res_valid` (R33, R34). -/
def statusResValid (r : Regs) : Bool := r.resValid

end Sys2Proof.Machine
end

