-- ==== Sys2Proof/Machine/Outputs.lean ====
section
/-! DEFINITION. The output ports (10_state.md R33, 42_transmit_nop.md R120): functions of the registers alone. -/
namespace Sys2Proof.Machine

/-- The output ports (R33). -/
structure Outputs where
  cmdReady       : Bool
  elValid        : Bool
  elWord         : ElWord
  carrierHz      : CarrierHz
  statusBusy     : Bool
  statusResValid : Bool
  frameOut       : Frame
  outMode        : BitVec 2
  outFan         : BitVec 2
  outSwing       : BitVec 1
  outTemp        : Temp
  seqIdx         : SeqIdx
deriving DecidableEq, Repr

/-- `out(s)` (R120). -/
def out (r : Regs) : Outputs where
  cmdReady       := r.phase == .idle
  elValid        := r.phase == .run
  elWord         := if r.phase = .run then elemWordAt params r.frame r.seqIdx else 0#17
  carrierHz      := params.carrierHz
  statusBusy     := Sys2Proof.Machine.statusBusy r
  statusResValid := Sys2Proof.Machine.statusResValid r
  frameOut       := r.frame
  outMode        := r.outMode.code
  outFan         := r.outFan.code
  outSwing       := r.outSwing.code
  outTemp        := r.outTemp
  seqIdx         := r.seqIdx

end Sys2Proof.Machine
end

