-- ==== Sys2Proof/Machine/FrameLayout.lean ====
section
/-! DEFINITION. The protocol frame: its fields and their bit ranges (30_encoding.md R63), its nibbles (R11, R64), the
nibble sum and the checksum (40_encoder.md R91 to R94). -/
namespace Sys2Proof.Machine

/-- RemoteFrameFields without the checksum (R14, R35, R63): combinational, never stored. -/
structure FrameFields where
  tempOfs    : BitVec 4
  modeFan    : BitVec 8
  swingCode  : BitVec 3
  quiet      : BitVec 1
  tempTens   : BitVec 4
  timerHours : BitVec 5
  timerEn    : BitVec 1
  power      : BitVec 4
deriving DecidableEq, Repr

/-- CKS, `[3:0]` (R63). -/
def cksField (f : Frame) : Nibble := f.extractLsb' 0 4
/-- TEMP_OFS, `[7:4]` (R63). -/
def tempOfsField (f : Frame) : BitVec 4 := f.extractLsb' 4 4
/-- MODE_FAN, `[15:8]` (R63). -/
def modeFanField (f : Frame) : BitVec 8 := f.extractLsb' 8 8
/-- SWING_CODE, `[18:16]` (R63). -/
def swingCodeField (f : Frame) : BitVec 3 := f.extractLsb' 16 3
/-- QUIET, `[19]` (R63). -/
def quietField (f : Frame) : BitVec 1 := f.extractLsb' 19 1
/-- TEMP_TENS, `[23:20]` (R63). -/
def tempTensField (f : Frame) : BitVec 4 := f.extractLsb' 20 4
/-- The zero range `[37:24]` (R63). -/
def zeroLowField (f : Frame) : BitVec 14 := f.extractLsb' 24 14
/-- TIMER_HOURS, `[42:38]` (R63). -/
def timerHoursField (f : Frame) : BitVec 5 := f.extractLsb' 38 5
/-- TIMER_EN, `[43]` (R63). -/
def timerEnField (f : Frame) : BitVec 1 := f.extractLsb' 43 1
/-- POWER, `[47:44]` (R63). -/
def powerField (f : Frame) : BitVec 4 := f.extractLsb' 44 4
/-- The zero range `[51:48]` (R63). -/
def zeroTopField (f : Frame) : BitVec 4 := f.extractLsb' 48 4

/-- A field's value at bits `[lo+w-1 : lo]` of a frame (R42). -/
def placeAt {w : Nat} (v : BitVec w) (lo : Nat) : Frame := v.setWidth frameBits <<< lo

/-- F0 (R91): every field in its range, all other bits 0, the checksum not yet stored. -/
def frameBase (x : FrameFields) : Frame :=
  placeAt x.tempOfs 4 ||| placeAt x.modeFan 8 ||| placeAt x.swingCode 16 ||| placeAt x.quiet 19
    ||| placeAt x.tempTens 20 ||| placeAt x.timerHours 38 ||| placeAt x.timerEn 43 ||| placeAt x.power 44

/-- Nibble j, `v[4j+3:4j]` (R11). -/
def nibble (f : Frame) (j : Nat) : Nibble := f.extractLsb' (4 * j) 4

/-- S (R92): the sum of nibbles 1 to 12. -/
def nibbleSum (f : Frame) : Nat := ((List.range 12).map fun j => (nibble f (j + 1)).toNat).sum

/-- CKS (R93): `0xF - (S & 0xF)`. -/
def checksum (f : Frame) : Nibble := BitVec.ofNat 4 (15 - nibbleSum f % 16)

/-- The frame (R94): F0 with the checksum in bits 3 to 0. -/
def frameOf (x : FrameFields) : Frame := frameBase x ||| placeAt (checksum (frameBase x)) 0

end Sys2Proof.Machine
end

