-- ==== Sys2Proof/Machine/Operands.lean ====
section
/-! DEFINITION. Operand assembly (30_encoding.md R79): the enumeration codes and FRM are read by Decode.lean; TEMP is
sign-extended here. No operand is scaled, shifted or put together from separate bits. -/
namespace Sys2Proof.Machine

/-- `t256 = sext_16(TEMP)` (R79, R86): the temperature in units of 1/256 °C. -/
def t256 (t : Temp) : Int := t.toInt

/-- An integer number of °C as a Q8.8 pattern, `ci << 8` (R88). -/
def q88OfInt (ci : Int) : Temp := BitVec.ofInt 16 (ci * q88One)

end Sys2Proof.Machine
end

