-- ==== Sys2Proof/Machine/StateEncoder.lean ====
section
/-! DEFINITION. The State Encoder (40_encoder.md R80 to R94): the pure function `enc`, for any protocol constants. -/
namespace Sys2Proof.Machine

/-- `fan_out` (R81): HEAT with MEDIUM is downgraded to LOW; nothing else changes. -/
def fanOut (m : Mode) (f : Fan) : Fan :=
  match m, f with
  | .heat, .medium => .low
  | _, f           => f

/-- MFQ (R82): the joint mode/fan code and the quiet bit. -/
def mfq (c : Config) (m : Mode) (f : Fan) : BitVec 8 × BitVec 1 :=
  match m, f with
  | .heat, .high   => (c.mfHeatHigh, 0#1)
  | .heat, .medium => (c.mfHeatLow, 0#1)
  | .heat, .low    => (c.mfHeatLow, 0#1)
  | .heat, .quiet  => (c.mfHeatLow, 1#1)
  | .dry, _        => (c.mfDry, 0#1)
  | .cool, .high   => (c.mfCoolHigh, 0#1)
  | .cool, .medium => (c.mfCoolMedium, 0#1)
  | .cool, .low    => (c.mfCoolLow, 0#1)
  | .cool, .quiet  => (c.mfCoolLow, 1#1)
  | .off, _        => (c.mfOff, 0#1)

/-- The power code (R83): power is on exactly when the mode is not OFF (90_conflicts.md C7). -/
def powerCode (c : Config) (m : Mode) : BitVec 4 :=
  if m = .off then c.powerOff else c.powerOn

/-- The swing code (R85), taken from the input in every mode (D9). -/
def swingCode (c : Config) (s : Swing) : BitVec 3 :=
  if s = .off then c.swingOff else c.swingHorizontal

/-- The lower clamp bound in °C (R86). -/
def tempLo (c : Config) (m : Mode) : Int :=
  if m = .cool then c.tempMinCool else c.tempMin

/-- `c256` (R86): the temperature clamped, in units of 1/256 °C. -/
def c256 (c : Config) (m : Mode) (t : Temp) : Int :=
  min (max (t256 t) (tempLo c m * q88One)) (c.tempMax * q88One)

/-- Rounding to the nearest integer (R87 for `up`: `(c256 + 128) >> 8`, ties toward +infinity; the other values of
TIE_MODE are D8's, read as notes/assumptions/8.md says). `/` is floor division for a positive divisor (R12). -/
def roundQ88 (tie : TieMode) (v : Int) : Int :=
  match tie with
  | .up   => (v + 128) / q88One
  | .down => (v + 127) / q88One
  | .even => if v % q88One = 128 ∧ v / q88One % 2 = 0 then v / q88One else (v + 128) / q88One

/-- `ci` (R87): the clamped integer temperature. -/
def ci (c : Config) (m : Mode) (t : Temp) : Int := roundQ88 c.tieMode (c256 c m t)

/-- TEMP_OFS (R89): `(ci - TEMP_MIN) & 0xF`, offset from TEMP_MIN in COOL as well. -/
def tempOfs (c : Config) (ci : Int) : BitVec 4 := BitVec.ofInt 4 (ci - c.tempMin)

/-- TEMP_TENS (R90): `(ci div 10) & 0xF` (90_conflicts.md C1). -/
def tempTens (ci : Int) : BitVec 4 := BitVec.ofInt 4 (ci / 10)

/-- The fields of the frame before the checksum (R81 to R90). -/
def fieldsOf (c : Config) (x : Climate) : FrameFields where
  tempOfs    := tempOfs c (ci c x.mode x.temp)
  modeFan    := (mfq c x.mode x.fan).1
  swingCode  := swingCode c x.swing
  quiet      := (mfq c x.mode x.fan).2
  tempTens   := tempTens (ci c x.mode x.temp)
  timerHours := c.timerHours
  timerEn    := c.timerEn
  power      := powerCode c x.mode

/-- The encoder's three outputs (R80). -/
structure EncResult where
  frame   : Frame
  fanOut  : Fan
  tempOut : Temp
deriving DecidableEq, Repr

/-- `enc` (R80, R94): total, reads and writes no register. -/
def enc (c : Config) (x : Climate) : EncResult where
  frame   := frameOf (fieldsOf c x)
  fanOut  := Sys2Proof.Machine.fanOut x.mode x.fan
  tempOut := q88OfInt (ci c x.mode x.temp)

end Sys2Proof.Machine
end

