-- ==== Sys2Proof/Machine/Ops.lean ====
section
/-! DEFINITION. The named operations over the registers and the ports: what each command writes, the acceptance of a
command and of an element (42_transmit_nop.md R118, 41_sequencer.md R109), the reset edge (70_reset_and_hazards.md R140)
and the sampling of the inputs (10_state.md R32). The block takes no exception and returns from none (60_exceptions.md
R125, R129, R130), and it has no memory (20_memory.md R40), so there is no operation for either. -/
namespace Sys2Proof.Machine

/-- The writes of ENCODE (R95), which TRANSMIT makes too (R115): FRAME, the corrected state and RES_VALID. -/
def Regs.writeResults (x : Climate) (e : EncResult) (r : Regs) : Regs :=
  { r with frame := e.frame, outMode := x.mode, outFan := e.fanOut, outSwing := x.swing, outTemp := e.tempOut,
           resValid := true }

/-- FRAME takes the raw frame of a SEQUENCE (R108). -/
def Regs.loadFrame (f : Frame) (r : Regs) : Regs := { r with frame := f }

/-- A sequence starts (R108, R115): PHASE becomes RUN and SEQ_IDX 0. -/
def Regs.startRun (r : Regs) : Regs := { r with phase := .run, seqIdx := 0#7 }

/-- A sequence is over (R109): PHASE becomes IDLE and SEQ_IDX 0. -/
def Regs.endRun (r : Regs) : Regs := { r with phase := .idle, seqIdx := 0#7 }

/-- The register writes of an element's acceptance (R109). SEQ_IDX counts modulo 128 in a state no reset has initialised
(93_implementation_defined.md U1). -/
def Regs.advance (r : Regs) : Regs :=
  if r.seqIdx = lastIdx then r.endRun else { r with seqIdx := r.seqIdx + 1#7 }

/-- A command is accepted only in IDLE (R22, R118): its writes happen then, and in RUN it waits and writes nothing (R145;
notes/assumptions/5.md). -/
def State.accept (write : Regs → Regs) (s : State) : State :=
  if s.regs.phase = .idle then { s with regs := write s.regs } else s

/-- The offered element is accepted (R109) and so delivered (R120): the element trace gains the `el_word` of the cycle. -/
def State.deliver (s : State) : State :=
  { s with regs := s.regs.advance, trace := s.trace ++ [(out s.regs).elWord] }

/-- An edge with `rst` = 1 (R140): every register takes its reset value. Elements already delivered stay delivered (R141). -/
def State.resetEdge (s : State) : State := { s with regs := Regs.reset }

/-- The inputs sampled at the next edge (R32): the first listed sample, or a free one where none is listed. -/
def State.sample (s : State) : Inputs :=
  match s.inputs with
  | []       => Config.freeInputs s.freeIdx
  | inp :: _ => inp

/-- The edge uses its sample up. -/
def State.consume (s : State) : State :=
  match s.inputs with
  | []        => { s with freeIdx := s.freeIdx + 1 }
  | _ :: rest => { s with inputs := rest }

/-- The element the next edge delivers, if any (R120): at an edge with `rst` = 0 and `el_ready` = 1, in a cycle with
`el_valid` = 1, the `el_word` of that cycle. -/
def State.delivered (s : State) : Option ElWord :=
  if !s.sample.rst && s.sample.elReady && (out s.regs).elValid then some (out s.regs).elWord else none

/-- The host offers `w` at the next edge (R133), with `rst` = 0. -/
def offerInputs (w : CmdWord) : Inputs := { rst := false, cmdValid := true, cmdWord := w, elReady := false }

/-- The state in which the very next edge accepts `w`: the block is IDLE, as it must be to accept (R22; a sequence in
progress is ended as R109 ends it), and the next sample offers `w`. -/
def State.offer (w : CmdWord) (s : State) : State :=
  { s with regs := if s.regs.phase = .run then s.regs.endRun else s.regs, inputs := offerInputs w :: s.inputs }

/-- The 82-bit tuple of R39, PHASE most significant. -/
def Regs.toTuple (r : Regs) : BitVec 82 :=
  r.phase.code ++ r.seqIdx ++ r.frame ++ r.outMode.code ++ r.outFan.code ++ r.outSwing.code ++ r.outTemp
    ++ BitVec.ofBool r.resValid

/-- The registers a tuple holds (R39): every 82-bit pattern is one state of the block. -/
def Regs.ofTuple (v : BitVec 82) : Regs where
  phase    := if v.extractLsb' 81 1 = 0#1 then .idle else .run
  seqIdx   := v.extractLsb' 74 7
  frame    := v.extractLsb' 22 frameBits
  outMode  := modeOf (v.extractLsb' 20 2)
  outFan   := fanOf (v.extractLsb' 18 2)
  outSwing := swingOf (v.extractLsb' 17 1)
  outTemp  := v.extractLsb' 1 16
  resValid := v.getLsbD 0

/-- The machine before its first reset (R142): the registers are a free draw (notes/assumptions/7.md). -/
def State.powerOn : State := { State.reset with regs := Regs.ofTuple Config.freePowerOn }

end Sys2Proof.Machine
end

