-- ==== Sys2Proof/Machine/Commands.lean ====
section
/-! DEFINITION. The meanings of the four commands (40_encoder.md R95, 41_sequencer.md R108, 42_transmit_nop.md R115, R117),
each at the edge that accepts it. Reserved bits reach none of them (30_encoding.md R60). -/
namespace Sys2Proof.Machine

/-- NOP (R117): accepted, changes nothing. -/
def execNop (s : State) : Host.Outcome State Fault Refusal :=
  .next (s.accept fun r => r)

/-- ENCODE (R95). -/
def execEncode (x : Climate) (s : State) : Host.Outcome State Fault Refusal :=
  .next (s.accept fun r => r.writeResults x (enc params x))

/-- SEQUENCE (R108): the frame is not checked (R112). -/
def execSequence (f : Frame) (s : State) : Host.Outcome State Fault Refusal :=
  .next (s.accept fun r => (r.loadFrame f).startRun)

/-- TRANSMIT (R115). -/
def execTransmit (x : Climate) (s : State) : Host.Outcome State Fault Refusal :=
  .next (s.accept fun r => (r.writeResults x (enc params x)).startRun)

end Sys2Proof.Machine
end

