-- ==== Sys2Proof/Machine/Dispatch.lean ====
section
/-! DEFINITION. The dispatch (42_transmit_nop.md R118): one arm per command. -/
namespace Sys2Proof.Machine

def exec (i : Instr) (s : State) : Host.Outcome State Fault Refusal :=
  match i with
  | .nop _ => Sys2Proof.Machine.execNop s
  | .encode x _ => Sys2Proof.Machine.execEncode x s
  | .sequence f _ => Sys2Proof.Machine.execSequence f s
  | .transmit x _ => Sys2Proof.Machine.execTransmit x s

end Sys2Proof.Machine
end

