-- ==== Sys2Proof/Machine/Clock.lean ====
section
/-! DEFINITION. The clock step for given inputs (42_transmit_nop.md R119). -/
namespace Sys2Proof.Machine

/-- `step(s, in)` (R119): reset first (R128, R143); in IDLE a command is accepted if one is offered, and `el_ready` is
ignored; in RUN the offered element is accepted if the transmitter is ready, and `cmd_valid` is ignored. -/
def edge (inp : Inputs) (s : State) : Host.Outcome State Fault Refusal :=
  if inp.rst then .next s.resetEdge
  else
    match s.regs.phase with
    | .idle => if inp.cmdValid then exec (decodeWord inp.cmdWord) s else .next s
    | .run  => if inp.elReady then .next s.deliver else .next s

end Sys2Proof.Machine
end

