-- ==== Sys2Proof/Machine/Step.lean ====
section
/-! DEFINITION. One step of the machine: one rising edge of `clk` (10_state.md R32, 42_transmit_nop.md R119). -/
namespace Sys2Proof.Machine

/-- The inputs of the edge are sampled and used up, and the clock step is taken. -/
def step (s : State) : Host.Outcome State Fault Refusal := edge s.sample s.consume

/-- `s` with the command of `nbits` bits `w` offered at the next edge (the bits above `nbits` 0): the block fetches
nothing (R21), it accepts the word on its command port (R51). See notes/assumptions/4.md. -/
def State.withFetchWord (s : State) (nbits w : Nat) : State := s.offer (BitVec.ofNat 64 (w % 2 ^ nbits))

end Sys2Proof.Machine
end

