-- ==== Sys2Proof/Machine/Asm.lean ====
section
/-! DEFINITION. The assembler and disassembler texts (30_encoding.md R75 to R77). They have no semantics of their own (D23):
the assembler makes command words, which the host offers. What R75 leaves open of the text (white space, the case of
keywords and digits, a sign, blank lines) is notes/assumptions/15.md; the digits of `rsvd=` are 16.md;
what becomes of a text with a refused line is 22.md. -/
namespace Sys2Proof.Machine

/-- A line of text. Fixed texts are written as lists of characters, which the kernel compares as they stand. -/
abbrev Text := List Char

/-- Why the assembler refuses a line (R75). It is the assembler's answer, not the machine's. The kinds, and which of them a
line with several flaws gets, are the model's (DESIGN CHOICE, notes/assumptions/22.md). -/
inductive AsmError where
  /-- No mnemonic of R75 or R76. -/
  | unknownMnemonic
  /-- Not the operands of R75, in its order and all of them. -/
  | badOperands
  /-- A temperature that is neither four hex digits nor a decimal with `t × 256` an integer in [-32768, 32767]. -/
  | badTemperature
  /-- A frame that is not one to thirteen hex digits. -/
  | badFrame
deriving DecidableEq, Repr

/-! ### Numbers -/

/-- The hex digit of a number below 16, upper case. -/
def hexDigit (n : Nat) : Char := if n < 10 then Char.ofNat (48 + n) else Char.ofNat (55 + n)

/-- `k` hex digits of `v`, most significant first. -/
def hexDigits : Nat → Nat → Text
  | 0, _     => []
  | k + 1, v => hexDigits k (v / 16) ++ [hexDigit (v % 16)]

/-- Decimal digits, most significant first. -/
def digitText (l : List (Fin 10)) : Text := l.map fun d => Char.ofNat (48 + d.val)

/-- The value of a decimal digit. -/
def decVal (c : Char) : Option Nat := if 48 ≤ c.toNat ∧ c.toNat ≤ 57 then some (c.toNat - 48) else none

/-- The value of a hex digit of either case. -/
def hexVal (c : Char) : Option Nat :=
  if 48 ≤ c.toNat ∧ c.toNat ≤ 57 then some (c.toNat - 48)
  else if 65 ≤ c.toNat ∧ c.toNat ≤ 70 then some (c.toNat - 55)
  else if 97 ≤ c.toNat ∧ c.toNat ≤ 102 then some (c.toNat - 87)
  else none

/-- Digits in a base, after a value already read. -/
def readDigits (base : Nat) (digit : Char → Option Nat) : Nat → Text → Option Nat
  | acc, []      => some acc
  | acc, c :: cs =>
    match digit c with
    | some d => readDigits base digit (acc * base + d) cs
    | none   => none

/-- The text after a prefix. -/
def afterPrefix : Text → Text → Option Text
  | [], t           => some t
  | _ :: _, []      => none
  | p :: ps, c :: cs => if p = c then afterPrefix ps cs else none

/-! ### Words of a line -/

/-- A space or a tab. -/
def isBlank (c : Char) : Bool := c == ' ' || c == '\t'

/-- The text without blanks at either end. -/
def trim (t : Text) : Text := ((t.dropWhile isBlank).reverse.dropWhile isBlank).reverse

/-- The line before its comment (R75). -/
def beforeComment (t : Text) : Text := t.takeWhile fun c => c != ';'

/-- The pieces of a text between separators. -/
def pieces (sep : Char) : Text → List Text
  | []      => [[]]
  | c :: cs =>
    if c = sep then [] :: pieces sep cs
    else
      match pieces sep cs with
      | []      => [[c]]
      | p :: ps => (c :: p) :: ps

/-- Mnemonics and value names are case-insensitive (R75). -/
def upper (t : Text) : Text := t.map Char.toUpper

/-- The value whose name this is, in any case (R75). -/
def lookupName {α : Type} (names : List (Text × α)) (t : Text) : Option α :=
  (names.find? fun p => p.1 == upper t).map fun p => p.2

/-! ### Operands -/

/-- Mode names (R13, R75). -/
def modeNames : List (Text × Mode) :=
  [(['O', 'F', 'F'], .off), (['C', 'O', 'O', 'L'], .cool), (['H', 'E', 'A', 'T'], .heat), (['D', 'R', 'Y'], .dry)]

/-- Fan names (R13, R75). -/
def fanNames : List (Text × Fan) :=
  [(['L', 'O', 'W'], .low), (['M', 'E', 'D', 'I', 'U', 'M'], .medium),
   (['H', 'I', 'G', 'H'], .high), (['Q', 'U', 'I', 'E', 'T'], .quiet)]

/-- Swing names (R13, R75). -/
def swingNames : List (Text × Swing) :=
  [(['O', 'F', 'F'], .off), (['H', 'O', 'R', 'I', 'Z', 'O', 'N', 'T', 'A', 'L'], .horizontal)]

/-- A mode's canonical name. -/
def modeText : Mode → Text
  | .off => ['O', 'F', 'F'] | .cool => ['C', 'O', 'O', 'L'] | .heat => ['H', 'E', 'A', 'T'] | .dry => ['D', 'R', 'Y']

/-- A fan speed's canonical name. -/
def fanText : Fan → Text
  | .low => ['L', 'O', 'W']
  | .medium => ['M', 'E', 'D', 'I', 'U', 'M']
  | .high => ['H', 'I', 'G', 'H']
  | .quiet => ['Q', 'U', 'I', 'E', 'T']

/-- A swing setting's canonical name. -/
def swingText : Swing → Text
  | .off => ['O', 'F', 'F'] | .horizontal => ['H', 'O', 'R', 'I', 'Z', 'O', 'N', 'T', 'A', 'L']

/-- The unsigned decimal `whole.frac`, as a numerator over `10 ^ frac.length` (R75). -/
def readDecimal (t : Text) : Option (Nat × Nat) :=
  match pieces '.' t with
  | [w]    => if w = [] then none else (readDigits 10 decVal 0 w).map fun n => (n, 1)
  | [w, f] => if w = [] ∨ f = [] then none else (readDigits 10 decVal 0 (w ++ f)).map fun n => (n, 10 ^ f.length)
  | _      => none

/-- A decimal temperature is accepted only if `t × 256` is an integer in [-32768, 32767] (R75); nothing is rounded. -/
def q88OfDecimal (neg : Bool) (num den : Nat) : Option Temp :=
  if num * 256 % den ≠ 0 then none
  else
    let v : Int := if neg then -((num * 256 / den : Nat) : Int) else ((num * 256 / den : Nat) : Int)
    if -32768 ≤ v ∧ v ≤ 32767 then some (BitVec.ofInt 16 v) else none

/-- `<t>` (R75): `0x` and four hex digits, or a decimal number of °C. -/
def readTemp (t : Text) : Option Temp :=
  match afterPrefix ['0', 'x'] t with
  | some h => if h.length = 4 then (readDigits 16 hexVal 0 h).map (BitVec.ofNat 16) else none
  | none =>
    match afterPrefix ['-'] t with
    | some d => (readDecimal d).bind fun p => q88OfDecimal true p.1 p.2
    | none   => (readDecimal t).bind fun p => q88OfDecimal false p.1 p.2

/-- `<f>` (R75): `0x` and one to thirteen hex digits, zero-extended to 52 bits. -/
def readFrame (t : Text) : Option Frame :=
  match afterPrefix ['0', 'x'] t with
  | some h => if 1 ≤ h.length ∧ h.length ≤ 13 then (readDigits 16 hexVal 0 h).map (BitVec.ofNat frameBits) else none
  | none   => none

/-- The operand `key=value`. -/
def operand {α : Type} (key : Text) (value : Text → Option α) (e : AsmError) (t : Text) : Except AsmError α :=
  match afterPrefix (key ++ ['=']) t with
  | none   => .error .badOperands
  | some v =>
    match value v with
    | some a => .ok a
    | none   => .error e

/-- The operand `mode=`. -/
def modeOperand : Text → Except AsmError Mode := operand ['m', 'o', 'd', 'e'] (lookupName modeNames) .badOperands
/-- The operand `fan=`. -/
def fanOperand : Text → Except AsmError Fan := operand ['f', 'a', 'n'] (lookupName fanNames) .badOperands
/-- The operand `swing=`. -/
def swingOperand : Text → Except AsmError Swing :=
  operand ['s', 'w', 'i', 'n', 'g'] (lookupName swingNames) .badOperands
/-- The operand `temp=`. -/
def tempOperand : Text → Except AsmError Temp := operand ['t', 'e', 'm', 'p'] readTemp .badTemperature
/-- The operand `frame=`. -/
def frameOperand : Text → Except AsmError Frame := operand ['f', 'r', 'a', 'm', 'e'] readFrame .badFrame

/-- ENCODE's and TRANSMIT's operands, in order and all required (R75). -/
def climateOperands : List Text → Except AsmError Climate
  | [m, f, s, t] => do
    let mode ← modeOperand m
    let fan ← fanOperand f
    let swing ← swingOperand s
    let temp ← tempOperand t
    return { mode := mode, fan := fan, swing := swing, temp := temp }
  | _ => .error .badOperands

/-! ### Lines -/

/-- The command of a line (R75, R76), with every reserved bit 0. `frameOut` is what the host last read from `frame_out`,
which RESEND sends again (R76). -/
def assembleCommand (frameOut : Frame) (mnemonic : Text) (ops : List Text) : Except AsmError Instr :=
  if mnemonic = ['N', 'O', 'P'] then
    match ops with
    | [] => .ok (.nop 0#62)
    | _  => .error .badOperands
  else if mnemonic = ['E', 'N', 'C', 'O', 'D', 'E'] then (climateOperands ops).map fun x => .encode x RsvdS.zero
  else if mnemonic = ['T', 'R', 'A', 'N', 'S', 'M', 'I', 'T'] then
    (climateOperands ops).map fun x => .transmit x RsvdS.zero
  else if mnemonic = ['S', 'E', 'Q', 'U', 'E', 'N', 'C', 'E'] then
    match ops with
    | [f] => (frameOperand f).map fun v => .sequence v 0#10
    | _   => .error .badOperands
  else if mnemonic = ['R', 'E', 'S', 'E', 'N', 'D'] then
    match ops with
    | [] => .ok (.sequence frameOut 0#10)
    | _  => .error .badOperands
  else if mnemonic = ['P', 'O', 'W', 'E', 'R', 'O', 'F', 'F'] then
    match ops with
    | [t, s] => (climateOperands [['m', 'o', 'd', 'e', '=', 'O', 'F', 'F'], ['f', 'a', 'n', '=', 'L', 'O', 'W'], s, t]).map fun x => .transmit x RsvdS.zero
    | _ => .error .badOperands
  else .error .unknownMnemonic

/-- The operand texts of a line: between commas, without blanks at either end. -/
def operandTexts (t : Text) : List Text := if trim t = [] then [] else (pieces ',' t).map trim

/-- One line: a command, or nothing on a line that is empty but for its comment (R75). -/
def assembleLine (frameOut : Frame) (line : Text) : Except AsmError (Option CmdWord) :=
  let l := trim (beforeComment line)
  if l = [] then .ok none
  else
    (assembleCommand frameOut (upper (l.takeWhile fun c => !isBlank c))
        (operandTexts (l.dropWhile fun c => !isBlank c))).map
      fun i => some (encodeInstr i)

/-- A text of lines, the first numbered `n`: its command words, or the refused line's number (R75). DESIGN CHOICE
(notes/assumptions/22.md): a text with a refused line makes no words at all, and only its first refused line is named. -/
def assembleLines (frameOut : Frame) : Nat → List Text → Except (Nat × AsmError) (List CmdWord)
  | _, []      => .ok []
  | n, l :: ls =>
    match assembleLine frameOut l with
    | .error e => .error (n, e)
    | .ok none => assembleLines frameOut (n + 1) ls
    | .ok (some w) => (assembleLines frameOut (n + 1) ls).map fun ws => w :: ws

/-! ### Disassembly -/

/-- Format S's operands as R77 prints them: TEMP as raw hex. -/
def climateText (x : Climate) : Text :=
  [' ', 'm', 'o', 'd', 'e', '='] ++ modeText x.mode ++ [',', ' ', 'f', 'a', 'n', '='] ++ fanText x.fan
    ++ [',', ' ', 's', 'w', 'i', 'n', 'g', '='] ++ swingText x.swing
    ++ [',', ' ', 't', 'e', 'm', 'p', '=', '0', 'x'] ++ hexDigits 4 x.temp.toNat

/-- `, rsvd=0x<hex>` if any reserved bit is 1 (R77). -/
def rsvdText (digits v : Nat) : Text :=
  if v = 0 then [] else [',', ' ', 'r', 's', 'v', 'd', '=', '0', 'x'] ++ hexDigits digits v

/-- Format S's reserved bits as one number, `{cmd_word[61:24], cmd_word[7:5]}` (R77). -/
def RsvdS.number (r : RsvdS) : Nat := (r.hi ++ r.lo).toNat

/-- A command's line (R77). -/
def instrText : Instr → Text
  | .nop r        => ['N', 'O', 'P'] ++ rsvdText 16 r.toNat
  | .encode x r   => ['E', 'N', 'C', 'O', 'D', 'E'] ++ climateText x ++ rsvdText 11 (RsvdS.number r)
  | .sequence f r =>
    ['S', 'E', 'Q', 'U', 'E', 'N', 'C', 'E', ' ', 'f', 'r', 'a', 'm', 'e', '=', '0', 'x'] ++ hexDigits 13 f.toNat
      ++ rsvdText 3 r.toNat
  | .transmit x r => ['T', 'R', 'A', 'N', 'S', 'M', 'I', 'T'] ++ climateText x ++ rsvdText 11 (RsvdS.number r)

/-- RESEND's line (R76). -/
def resendText : Text := ['R', 'E', 'S', 'E', 'N', 'D']

/-- POWEROFF's line (R76), of its two operand texts `temp=<t>` and `swing=<s>`. -/
def powerOffText (t s : Text) : Text := ['P', 'O', 'W', 'E', 'R', 'O', 'F', 'F', ' '] ++ t ++ [',', ' '] ++ s

/-- What R76 expands POWEROFF's line to. -/
def powerOffExpansion (t s : Text) : Text :=
  ['T', 'R', 'A', 'N', 'S', 'M', 'I', 'T', ' ']
    ++ ['m', 'o', 'd', 'e', '=', 'O', 'F', 'F', ',', ' ', 'f', 'a', 'n', '=', 'L', 'O', 'W', ',', ' '] ++ s ++ [',', ' '] ++ t

/-- A decimal temperature's text (R75): an optional minus sign, the digits of the whole part, and the digits after the point
where there are any. -/
def decimalText (neg : Bool) (whole frac : List (Fin 10)) : Text :=
  (if neg then ['-'] else []) ++ digitText whole ++ (if frac = [] then [] else '.' :: digitText frac)

/-- The disassembly of a word (R77): every word has one (R61). -/
def disassemble (w : CmdWord) : Text := instrText (decodeWord w)

end Sys2Proof.Machine
end

