-- ==== Sys2Proof/Machine/Partners.lean ====
section
/-! DEFINITION. The block's two partners at its interface (60_exceptions.md R133): what the host and the transmitter owe.
The block does none of this itself; these are the premises a claim about them takes (notes/assumptions/17.md). -/
namespace Sys2Proof.Machine

/-- The host's write-back duty (R148): copy `out_fan` and `out_temp` into its LogicalClimateState. -/
def writeBack (o : Outputs) (x : Climate) : Climate := { x with fan := fanOf o.outFan, temp := o.outTemp }

/-- What the transmitter emits for one element (R133): a mark as carrier at `carrier_hz`, a space as no emission (R105),
for DUR microseconds. -/
structure Pulse where
  carrier : Option CarrierHz
  us      : Nat
deriving DecidableEq, Repr

/-- The emission of one delivered element. KIND is ignored (R72). -/
def pulseOf (o : Outputs) (w : ElWord) : Pulse where
  carrier := if elLevel w = 1#1 then some o.carrierHz else none
  us      := (elDur w).toNat

/-- The emission of an element trace: every element in delivery order, with no gap between two (R133, PRESUMED:
notes/assumptions/17.md). -/
def emission (o : Outputs) (trace : List ElWord) : List Pulse := trace.map (pulseOf o)

/-- How long an emission lasts, in microseconds. -/
def emissionUs (l : List Pulse) : Nat := (l.map Pulse.us).sum

/-- The host's repeat-gap duty (R147): at least REPEAT_GAP_US of no emission between the END_MARK of one sequence and the
HDR_MARK of the next. -/
def repeatGapKept (silenceUs : Nat) : Bool := params.repeatGapUs ≤ silenceUs

/-- No edge of the list asserts `rst`. -/
def noReset (l : List Inputs) : Bool := l.all fun i => !i.rst

/-- The edges of the list at which the transmitter is ready. -/
def readyEdges (l : List Inputs) : Nat := l.countP fun i => i.elReady

end Sys2Proof.Machine
end

