-- ==== Sys2Proof/Safety.lean ====
section
/-! DEFINITION. What holds in every state reached from reset (10_state.md R31, R29), and the states claims name
(42_transmit_nop.md R121). -/
namespace Sys2Proof.Machine

/-- R31, of the registers. (c): OUT_TEMP is one of 0x0F00, 0x1000, ..., 0x1E00. -/
structure Regs.Inv (r : Regs) : Prop where
  /-- (a) -/
  idleIdx : r.phase = .idle → r.seqIdx = 0#7
  /-- (b) -/
  idxBound : r.seqIdx.toNat ≤ 108
  /-- (c) -/
  tempLegal : r.resValid = true → ∃ k : Nat, 15 ≤ k ∧ k ≤ 30 ∧ r.outTemp = BitVec.ofNat 16 (256 * k)
  /-- (d) -/
  coolTemp : r.resValid = true → r.outMode = .cool → 0x1100 ≤ r.outTemp.toNat
  /-- (e) -/
  heatFan : r.resValid = true → r.outMode = .heat → r.outFan ≠ .medium

/-- R29: while RES_VALID = 0 the OUT_* registers hold their reset values. -/
def Regs.OutAtReset (r : Regs) : Prop :=
  r.resValid = false → r.outMode = .off ∧ r.outFan = .low ∧ r.outSwing = .off ∧ r.outTemp = 0x0000#16

/-- Quiescent (R121): the block changes only when a command is accepted or on reset. -/
def State.quiescent (s : State) : Bool := s.regs.phase == .idle

end Sys2Proof.Machine
end

