-- ==== Sys2Proof/Certificates/Slice0/Obligations.lean ====
section
/-! DEFINITION. The statements about the FRAL IR frame encoder, from the numbered rules of spec/. Where a statement gives a
next state as a record update of the old one, what the update does not name is unchanged: that is the frame. The block has
no memory (R40), so no statement speaks of one. -/
open Sys2Proof Sys2Proof.Machine

/-! ### The command word -/

/-- R54, R55, R58, R59: no bit of a command's word is dropped, for every operand and every reserved bit. That a command keeps
its reserved bits as data is the model's choice (notes/assumptions/10.md). -/
def Obligations.DecodeOfEncodeIsIdentity : Prop :=
  ∀ i : Instr, decodeWord (encodeInstr i) = i

/-- Encoding what the decoder reads gives the word back. R61's own decoder drops the reserved bits; that a command keeps them,
as R77 prints them and 95_test_vectors.md section 2.1 lists them, is the model's choice (DESIGN CHOICE,
notes/assumptions/10.md), and this rests on it. The fields are those of R53, R55, R58 and R59. -/
def Obligations.EncodeOfDecodeIsIdentity : Prop :=
  ∀ w : CmdWord, encodeInstr (decodeWord w) = w

/-- R61, R79: the decoder, its slices written as arithmetic on the word's number. -/
def Obligations.DecoderReadsOperandSlices : Prop :=
  ∀ w : CmdWord,
    (w.toNat / 2 ^ 62 = 0 → ∃ r, decodeWord w = .nop r) ∧
    (w.toNat / 2 ^ 62 = 1 → ∃ x r, decodeWord w = .encode x r ∧
      x.mode.code.toNat = w.toNat % 4 ∧ x.fan.code.toNat = w.toNat / 4 % 4 ∧
      x.swing.code.toNat = w.toNat / 16 % 2 ∧ x.temp.toNat = w.toNat / 256 % 65536) ∧
    (w.toNat / 2 ^ 62 = 2 → ∃ f r, decodeWord w = .sequence f r ∧ f.toNat = w.toNat % 2 ^ 52) ∧
    (w.toNat / 2 ^ 62 = 3 → ∃ x r, decodeWord w = .transmit x r ∧
      x.mode.code.toNat = w.toNat % 4 ∧ x.fan.code.toNat = w.toNat / 4 % 4 ∧
      x.swing.code.toNat = w.toNat / 16 % 2 ∧ x.temp.toNat = w.toNat / 256 % 65536)

/-- 95_test_vectors.md section 2.1: a word of each command, and two with reserved bits set, which a command keeps as data
(notes/assumptions/10.md). -/
def Obligations.SampleWordsDecode : Prop :=
  decodeWord 0x3FFFFFFFFFFFFFFF#64 = .nop 0x3FFFFFFFFFFFFFFF#62 ∧
  decodeWord 0x4000000000166609#64 = .encode ⟨.cool, .high, .off, 0x1666#16⟩ ⟨0#38, 0#3⟩ ∧
  decodeWord 0x7FFFFFFFFF1666FC#64 = .encode ⟨.off, .quiet, .horizontal, 0x1666#16⟩ ⟨0x3FFFFFFFFF#38, 0x7#3⟩ ∧
  decodeWord 0x8008000000000001#64 = .sequence 0x8000000000001#52 0#10 ∧
  decodeWord 0xC00000000080001F#64 = .transmit ⟨.dry, .quiet, .horizontal, 0x8000#16⟩ ⟨0#38, 0#3⟩

/-- R60: two words that agree on OP and on the bits their format gives a meaning have the same effect at every edge, and
it is a next state. -/
def Obligations.ReservedBitsChangeNothing : Prop :=
  ∀ (s : State) (rest : List Inputs) (v w : CmdWord) (rst valid ready : Bool),
    (v.toNat / 2 ^ 62 = 0 ∧ w.toNat / 2 ^ 62 = 0) ∨
    (v &&& 0xC000000000FFFF1F#64 = w &&& 0xC000000000FFFF1F#64 ∧ v.toNat / 2 ^ 62 % 2 = 1) ∨
    (v &&& 0xC00FFFFFFFFFFFFF#64 = w &&& 0xC00FFFFFFFFFFFFF#64 ∧ v.toNat / 2 ^ 62 = 2) →
    ∃ t, step { s with inputs := ⟨rst, valid, v, ready⟩ :: rest } = .next t ∧
      step { s with inputs := ⟨rst, valid, w, ready⟩ :: rest } = .next t

/-! ### State and reset -/

/-- R39: the registers are an 82-bit tuple, every pattern of which is one state of the block. Each register stands at the
bits that the order R39 lists them in gives it, first field most significant (DEDUCED, notes/assumptions/20.md). -/
def Obligations.RegistersAreTheTuple : Prop :=
  (∀ r : Regs, Regs.ofTuple r.toTuple = r) ∧ (∀ v : BitVec 82, (Regs.ofTuple v).toTuple = v) ∧
  ∀ r : Regs,
    r.toTuple.extractLsb' 81 1 = (if r.phase = .run then 1#1 else 0#1) ∧ r.toTuple.extractLsb' 74 7 = r.seqIdx ∧
    r.toTuple.extractLsb' 22 52 = r.frame ∧ r.toTuple.extractLsb' 20 2 = r.outMode.code ∧
    r.toTuple.extractLsb' 18 2 = r.outFan.code ∧ r.toTuple.extractLsb' 17 1 = r.outSwing.code ∧
    r.toTuple.extractLsb' 1 16 = r.outTemp ∧ r.toTuple.extractLsb' 0 1 = (if r.resValid = true then 1#1 else 0#1)

/-- R30, R140: the registers after reset. -/
def Obligations.RegistersAfterReset : Prop :=
  Sys2Proof.core.reset.regs =
    { phase := .idle, seqIdx := 0#7, frame := 0#52, outMode := .off, outFan := .low, outSwing := .off,
      outTemp := 0#16, resValid := false }

/-- R140: from every state, the pre-reset draws of R142 among them, an edge with `rst` = 1 gives RESET whatever the other
inputs, and the outputs of the next cycle are those of the rule. -/
def Obligations.ResetEdgeGivesReset : Prop :=
  ∀ s : State, s.sample.rst = true → ∃ t, step s = .next t ∧
    t.regs = { phase := .idle, seqIdx := 0#7, frame := 0#52, outMode := .off, outFan := .low, outSwing := .off,
               outTemp := 0#16, resValid := false } ∧
    out t.regs = { cmdReady := true, elValid := false, elWord := 0#17, carrierHz := 38000#16, statusBusy := false,
                   statusResValid := false, frameOut := 0#52, outMode := 0#2, outFan := 0#2, outSwing := 0#1,
                   outTemp := 0#16, seqIdx := 0#7 }

/-- R141, R143: at an edge with `rst` = 1 no command is accepted and no element delivered. That the model's own fields are
left, but for the sample used up, is notes/assumptions/1.md and 3.md. -/
def Obligations.ResetBeatsHandshakes : Prop :=
  ∀ s : State, s.sample.rst = true →
    s.delivered = none ∧ step s = .next { s.consume with regs := State.reset.regs }

/-- R31 and R29 hold after reset. -/
def Obligations.InvariantAfterReset : Prop :=
  State.reset.regs.Inv ∧ State.reset.regs.OutAtReset

/-- R31 (a) to (e): every step keeps the invariants, whatever the partners drive. -/
def Obligations.EveryStepKeepsInvariant : Prop :=
  ∀ s t : State, s.regs.Inv → step s = .next t → t.regs.Inv

/-- R29: every step keeps "while RES_VALID = 0, the OUT_* registers hold their reset values". -/
def Obligations.EveryStepKeepsOutAtReset : Prop :=
  ∀ s t : State, s.regs.OutAtReset → step s = .next t → t.regs.OutAtReset

/-! ### The clock step -/

/-- R119: the whole of `step`, its slices of `cmd_word` written out. -/
def Obligations.StepFollowsClockStep : Prop :=
  ∀ s : State, ∃ t, step s = .next t ∧
    (s.sample.rst = true → t.regs = Regs.reset) ∧
    (s.sample.rst = false → s.regs.phase = .idle → s.sample.cmdValid = false → t.regs = s.regs) ∧
    (s.sample.rst = false → s.regs.phase = .idle → s.sample.cmdValid = true →
      (s.sample.cmdWord.extractLsb' 62 2 = 0b00#2 → t.regs = s.regs) ∧
      (∀ x : Climate, x.mode.code = s.sample.cmdWord.extractLsb' 0 2 → x.fan.code = s.sample.cmdWord.extractLsb' 2 2 →
          x.swing.code = s.sample.cmdWord.extractLsb' 4 1 → x.temp = s.sample.cmdWord.extractLsb' 8 16 →
        (s.sample.cmdWord.extractLsb' 62 2 = 0b01#2 → t.regs =
          { s.regs with frame := (enc params x).frame, outMode := x.mode, outFan := (enc params x).fanOut,
                        outSwing := x.swing, outTemp := (enc params x).tempOut, resValid := true }) ∧
        (s.sample.cmdWord.extractLsb' 62 2 = 0b11#2 → t.regs =
          { phase := .run, seqIdx := 0#7, frame := (enc params x).frame, outMode := x.mode,
            outFan := (enc params x).fanOut, outSwing := x.swing, outTemp := (enc params x).tempOut,
            resValid := true })) ∧
      (s.sample.cmdWord.extractLsb' 62 2 = 0b10#2 → t.regs =
        { s.regs with frame := s.sample.cmdWord.extractLsb' 0 52, phase := .run, seqIdx := 0#7 })) ∧
    (s.sample.rst = false → s.regs.phase = .run →
      (s.sample.elReady = false → t.regs = s.regs) ∧
      (s.sample.elReady = true → s.regs.seqIdx = 108#7 → t.regs = { s.regs with phase := .idle, seqIdx := 0#7 }) ∧
      (s.sample.elReady = true → s.regs.seqIdx ≠ 108#7 → t.regs = { s.regs with seqIdx := s.regs.seqIdx + 1#7 }))

/-- R118, R51: at an edge that accepts a command, the step is the meaning of the command the sampled word decodes to, on
the state with the sample used up. -/
def Obligations.StepRunsOfferedCommand : Prop :=
  ∀ (s : State) (i : Instr), s.sample.rst = false → s.sample.cmdValid = true → s.regs.phase = .idle →
    decodeWord s.sample.cmdWord = i →
    step s = exec i s.consume ∧ s.consume.regs = s.regs ∧ s.consume.trace = s.trace

/-- The next step after `withFetchWord` runs that command from IDLE: the model's own way to offer a command
(notes/assumptions/4.md). -/
def Obligations.PlacedCommandIsRun : Prop :=
  ∀ (s : State) (i : Instr), step (s.withFetchWord 64 (encodeInstr i).toNat) =
    exec i { s with regs := if s.regs.phase = .run then { s.regs with phase := .idle, seqIdx := 0#7 } else s.regs }

/-- R125: no state, command or input makes the machine fault or refuse. -/
def Obligations.NothingFaultsOrIsRefused : Prop :=
  (∀ s : State, ∃ t, step s = .next t) ∧ ∀ (i : Instr) (s : State), ∃ t, exec i s = .next t

/-- R22, R145: in RUN the command port is ignored at every edge, and in IDLE `el_ready` is (R119). The third clause, what
`exec` answers in RUN, where no step asks for it, is the model's reading (DEDUCED, notes/assumptions/5.md). -/
def Obligations.UnreadyPortIsIgnored : Prop :=
  (∀ (s : State) (rest : List Inputs) (rst ready v w : Bool) (a b : CmdWord), s.regs.phase = .run →
    step { s with inputs := ⟨rst, v, a, ready⟩ :: rest } = step { s with inputs := ⟨rst, w, b, ready⟩ :: rest }) ∧
  (∀ (s : State) (rest : List Inputs) (rst valid a b : Bool) (w : CmdWord), s.regs.phase = .idle →
    step { s with inputs := ⟨rst, valid, w, a⟩ :: rest } = step { s with inputs := ⟨rst, valid, w, b⟩ :: rest }) ∧
  (∀ (i : Instr) (s : State), s.regs.phase = .run → exec i s = .next s)

/-- R22 to R30: what can change each register at an edge without reset. -/
def Obligations.WritersOfEachRegister : Prop :=
  ∀ s t : State, step s = .next t → s.sample.rst = false →
    (t.regs.phase ≠ s.regs.phase →
      (s.regs.phase = .idle ∧ s.sample.cmdValid = true ∧ 2 ≤ s.sample.cmdWord.toNat / 2 ^ 62) ∨
      (s.regs.phase = .run ∧ s.sample.elReady = true ∧ s.regs.seqIdx = 108#7)) ∧
    (t.regs.seqIdx ≠ s.regs.seqIdx →
      (s.regs.phase = .idle ∧ s.sample.cmdValid = true ∧ 2 ≤ s.sample.cmdWord.toNat / 2 ^ 62) ∨
      (s.regs.phase = .run ∧ s.sample.elReady = true)) ∧
    (t.regs.frame ≠ s.regs.frame →
      s.regs.phase = .idle ∧ s.sample.cmdValid = true ∧ s.sample.cmdWord.toNat / 2 ^ 62 ≠ 0) ∧
    (t.regs.outMode ≠ s.regs.outMode ∨ t.regs.outFan ≠ s.regs.outFan ∨ t.regs.outSwing ≠ s.regs.outSwing ∨
        t.regs.outTemp ≠ s.regs.outTemp ∨ t.regs.resValid ≠ s.regs.resValid →
      s.regs.phase = .idle ∧ s.sample.cmdValid = true ∧ s.sample.cmdWord.toNat / 2 ^ 62 % 2 = 1 ∧
        t.regs.resValid = true)

/-- R47, R113, R136: edges with `rst` = 0, no command offered and no element taken leave every register as it was, for any
number of them. What `inputs` lists is used up, the model's own field (notes/assumptions/1.md). -/
def Obligations.QuietEdgesHoldEverything : Prop :=
  ∀ (s : State) (ins rest : List Inputs), s.inputs = ins ++ rest →
    (∀ i ∈ ins, i.rst = false ∧ i.cmdValid = false ∧ i.elReady = false) →
    Host.Core.run Sys2Proof.core ins.length s = .next { s with inputs := rest }

/-- R38: the frame and the corrected state of ENCODE or TRANSMIT depend on `cmd_word[23:0]` alone. Second clause: an element
depends on FRAME and SEQ_IDX alone, by R36 for SEQ_IDX from 0 to 108; from 109 to 127, where `elem` is not defined and U1 calls
`el_word` a draw, it is the model's reading (DEDUCED, notes/assumptions/6.md). -/
def Obligations.ResultsDependOnCommandAlone : Prop :=
  (∀ s₁ s₂ t₁ t₂ : State,
    s₁.regs.phase = .idle → s₁.sample.rst = false → s₁.sample.cmdValid = true →
    s₁.sample.cmdWord.toNat / 2 ^ 62 % 2 = 1 →
    s₂.regs.phase = .idle → s₂.sample.rst = false → s₂.sample.cmdValid = true →
    s₂.sample.cmdWord.toNat / 2 ^ 62 % 2 = 1 →
    s₁.sample.cmdWord.toNat % 2 ^ 24 = s₂.sample.cmdWord.toNat % 2 ^ 24 →
    step s₁ = .next t₁ → step s₂ = .next t₂ →
    t₁.regs.frame = t₂.regs.frame ∧ t₁.regs.outMode = t₂.regs.outMode ∧ t₁.regs.outFan = t₂.regs.outFan ∧
      t₁.regs.outSwing = t₂.regs.outSwing ∧ t₁.regs.outTemp = t₂.regs.outTemp) ∧
  ∀ r₁ r₂ : Regs, r₁.phase = r₂.phase → r₁.frame = r₂.frame → r₁.seqIdx = r₂.seqIdx → (out r₁).elWord = (out r₂).elWord

/-! ### The four commands -/

/-- R117: NOP is accepted and changes nothing, whatever its payload. -/
def Obligations.NopCompletes : Prop :=
  ∀ (r : BitVec 62) (s : State), s.regs.phase = .idle → exec (.nop r) s = .next s

/-- R95: ENCODE's writes; PHASE, SEQ_IDX and everything else unchanged. -/
def Obligations.EncodeCompletes : Prop :=
  ∀ (x : Climate) (r : RsvdS) (s : State), s.regs.phase = .idle →
    exec (.encode x r) s = .next { s with regs := { s.regs with
      frame := (enc params x).frame, outMode := x.mode, outFan := (enc params x).fanOut, outSwing := x.swing,
      outTemp := (enc params x).tempOut, resValid := true } }

/-- R108, R112: SEQUENCE loads any frame, starts the sequence, and leaves OUT_* and RES_VALID as they were. -/
def Obligations.SequenceCompletes : Prop :=
  ∀ (f : Frame) (r : BitVec 10) (s : State), s.regs.phase = .idle →
    exec (.sequence f r) s = .next { s with regs := { s.regs with frame := f, phase := .run, seqIdx := 0#7 } }

/-- R115: TRANSMIT writes every register. -/
def Obligations.TransmitCompletes : Prop :=
  ∀ (x : Climate) (r : RsvdS) (s : State), s.regs.phase = .idle →
    exec (.transmit x r) s = .next { s with regs := {
      phase := .run, seqIdx := 0#7, frame := (enc params x).frame, outMode := x.mode,
      outFan := (enc params x).fanOut, outSwing := x.swing, outTemp := (enc params x).tempOut, resValid := true } }

/-- R116: ENCODE and then SEQUENCE of `frame_out` leave what one TRANSMIT leaves. In RUN, where none is accepted, all three
leave the state as it is (DEDUCED, notes/assumptions/5.md). -/
def Obligations.TransmitIsEncodeThenSequence : Prop :=
  ∀ (x : Climate) (r₁ r₂ : RsvdS) (r₃ : BitVec 10) (s t : State), exec (.encode x r₁) s = .next t →
    exec (.sequence (out t.regs).frameOut r₃) t = exec (.transmit x r₂) s

/-- R98, R148: a host that writes `out_fan` and `out_temp` back and encodes again changes nothing. -/
def Obligations.WriteBackIsAFixedPoint : Prop :=
  ∀ (x : Climate) (r₁ r₂ : RsvdS) (s t : State), s.regs.phase = .idle → exec (.encode x r₁) s = .next t →
    exec (.encode (writeBack (out t.regs) x) r₂) t = .next t

/-! ### The State Encoder -/

/-- R81: only HEAT with MEDIUM changes the fan, to LOW; in OFF and DRY the frame ignores the fan. -/
def Obligations.FanIsNormalised : Prop :=
  (∀ (c : Config) (x : Climate),
    (enc c x).fanOut = if x.mode = .heat ∧ x.fan = .medium then .low else x.fan) ∧
  ∀ (c : Config) (m : Mode) (f g : Fan) (sw : Swing) (t : Temp), m = .off ∨ m = .dry →
    (enc c ⟨m, f, sw, t⟩).frame = (enc c ⟨m, g, sw, t⟩).frame

/-- R82: MODE_FAN and QUIET of the frame, row by row, for every swing and temperature; the normalised fan gives the same. -/
def Obligations.JointModeFanCode : Prop :=
  (∀ (sw : Swing) (t : Temp),
    ∀ row ∈ ([(.heat, .high, 0x03#8, 0#1), (.heat, .medium, 0x01#8, 0#1), (.heat, .low, 0x01#8, 0#1),
        (.heat, .quiet, 0x01#8, 1#1), (.dry, .low, 0x24#8, 0#1), (.dry, .medium, 0x24#8, 0#1),
        (.dry, .high, 0x24#8, 0#1), (.dry, .quiet, 0x24#8, 0#1), (.cool, .high, 0x08#8, 0#1),
        (.cool, .medium, 0x11#8, 0#1), (.cool, .low, 0x22#8, 0#1), (.cool, .quiet, 0x22#8, 1#1),
        (.off, .low, 0x22#8, 0#1), (.off, .medium, 0x22#8, 0#1), (.off, .high, 0x22#8, 0#1),
        (.off, .quiet, 0x22#8, 0#1)] : List (Mode × Fan × BitVec 8 × BitVec 1)),
      (enc params ⟨row.1, row.2.1, sw, t⟩).frame.extractLsb' 8 8 = row.2.2.1 ∧
      (enc params ⟨row.1, row.2.1, sw, t⟩).frame.extractLsb' 19 1 = row.2.2.2) ∧
  ∀ (m : Mode) (f : Fan), mfq params m f = mfq params m (fanOut m f)

/-- R83, R84, R85: the power, timer and swing codes of the frame. -/
def Obligations.PowerTimerAndSwingCodes : Prop :=
  ∀ x : Climate,
    (enc params x).frame.extractLsb' 44 4 = (if x.mode = .off then 0x0#4 else 0x3#4) ∧
    (enc params x).frame.extractLsb' 43 1 = 0#1 ∧ (enc params x).frame.extractLsb' 38 5 = 0#5 ∧
    (enc params x).frame.extractLsb' 16 3 = (if x.swing = .off then 0x2#3 else 0x4#3)

/-- R63, R65 to R68: the range of every field of an encoded frame; the zero ranges are 0, and swing "fast" is never made. -/
def Obligations.EncodedFrameFieldRanges : Prop :=
  ∀ x : Climate,
    (enc params x).frame.extractLsb' 8 8 ∈ [0x01#8, 0x03#8, 0x08#8, 0x11#8, 0x22#8, 0x24#8] ∧
    (enc params x).frame.extractLsb' 16 3 ∈ [0x2#3, 0x4#3] ∧
    (enc params x).frame.extractLsb' 20 4 ∈ [1#4, 2#4, 3#4] ∧
    (enc params x).frame.extractLsb' 24 14 = 0#14 ∧ (enc params x).frame.extractLsb' 38 5 = 0#5 ∧
    (enc params x).frame.extractLsb' 43 1 = 0#1 ∧ (enc params x).frame.extractLsb' 44 4 ∈ [0x0#4, 0x3#4] ∧
    (enc params x).frame.extractLsb' 48 4 = 0#4

/-- R91: the fields of F0 do not overlap, so `|` equals `+`, for every value of every field. -/
def Obligations.FrameFieldsDoNotOverlap : Prop :=
  ∀ x : FrameFields, (frameBase x).toNat =
    x.tempOfs.toNat * 2 ^ 4 + x.modeFan.toNat * 2 ^ 8 + x.swingCode.toNat * 2 ^ 16 + x.quiet.toNat * 2 ^ 19
      + x.tempTens.toNat * 2 ^ 20 + x.timerHours.toNat * 2 ^ 38 + x.timerEn.toNat * 2 ^ 43 + x.power.toNat * 2 ^ 44

/-- R92, R93: the nibble sum of F0, over nibbles 1 to 12 or all thirteen, and the checksum stored in bits 3 to 0, for any
protocol constants. -/
def Obligations.ChecksumIsComplementOfNibbleSum : Prop :=
  ∀ (c : Config) (x : Climate), ∃ S : Nat,
    S = ((List.range 12).map fun j => (frameBase (fieldsOf c x)).toNat / 16 ^ (j + 1) % 16).sum ∧
    S = ((List.range 13).map fun j => (frameBase (fieldsOf c x)).toNat / 16 ^ j % 16).sum ∧ S ≤ 180 ∧
    (enc c x).frame.toNat % 16 = 15 - S % 16 ∧
    (enc c x).frame.extractLsb' 0 4 = ~~~(BitVec.ofNat 4 S) ∧
    (enc c x).frame.toNat / 16 = (frameBase (fieldsOf c x)).toNat / 16

/-- R97: the check a receiver can make on any encoded frame, for any protocol constants. -/
def Obligations.ChecksumRoundTrip : Prop :=
  ∀ (c : Config) (x : Climate),
    15 - ((List.range 12).map fun j => (enc c x).frame.toNat / 16 ^ (j + 1) % 16).sum % 16
      = (enc c x).frame.toNat % 16 ∧
    ((List.range 13).map fun j => (enc c x).frame.toNat / 16 ^ j % 16).sum % 16 = 15

/-- R86, R87, R88: the temperature handed back is the clamped temperature rounded to the nearest integer, ties up (the
tie rule is R87's, by the spec's decision D8), and rounding before clamping gives the same. -/
def Obligations.TemperatureIsClampedAndRounded : Prop :=
  ∀ x : Climate, ∃ lo c k : Int,
    lo = (if x.mode = .cool then 17 else 15) ∧
    c = min (max x.temp.toInt (lo * 256)) (30 * 256) ∧
    256 * k - 128 ≤ c ∧ c < 256 * k + 128 ∧ lo ≤ k ∧ k ≤ 30 ∧
    k = min (max ((x.temp.toInt + 128) / 256) lo) 30 ∧
    (enc params x).tempOut = BitVec.ofInt 16 (256 * k) ∧ (enc params x).tempOut.toInt = 256 * k

/-- R89, R90: the two temperature fields, both from the temperature handed back. -/
def Obligations.BothTemperatureFields : Prop :=
  ∀ x : Climate,
    (((enc params x).frame.extractLsb' 4 4).toNat : Int) = (enc params x).tempOut.toInt / 256 - 15 ∧
    (((enc params x).frame.extractLsb' 20 4).toNat : Int) = (enc params x).tempOut.toInt / 256 / 10

/-- R98: encoding the corrected state again gives the same frame and the same corrected state, whatever TIE_MODE (the readings
of `even` and `down` are the model's, DEDUCED, notes/assumptions/8.md); and HEAT with MEDIUM gives HEAT with LOW's frame. -/
def Obligations.EncodingCorrectedStateIsIdempotent : Prop :=
  ∀ (tie : TieMode) (m : Mode) (f : Fan) (sw : Swing) (t : Temp),
    enc { params with tieMode := tie }
        ⟨m, (enc { params with tieMode := tie } ⟨m, f, sw, t⟩).fanOut, sw,
          (enc { params with tieMode := tie } ⟨m, f, sw, t⟩).tempOut⟩
      = enc { params with tieMode := tie } ⟨m, f, sw, t⟩ ∧
    (enc { params with tieMode := tie } ⟨.heat, .medium, sw, t⟩).frame
      = (enc { params with tieMode := tie } ⟨.heat, .low, sw, t⟩).frame

/-- R99: the OFF frame, and what it and the DRY frame do not depend on. -/
def Obligations.OffFrameIsForced : Prop :=
  (∀ (f : Fan) (sw : Swing) (t : Temp),
    (enc params ⟨.off, f, sw, t⟩).frame.extractLsb' 38 14 = 0#14 ∧
    (enc params ⟨.off, f, sw, t⟩).frame.extractLsb' 8 8 = 0x22#8 ∧
    (enc params ⟨.off, f, sw, t⟩).frame.extractLsb' 19 1 = 0#1) ∧
  ∀ (f g : Fan) (sw : Swing) (t : Temp),
    (enc params ⟨.off, f, sw, t⟩).frame = (enc params ⟨.off, g, sw, t⟩).frame ∧
    (enc params ⟨.dry, f, sw, t⟩).frame = (enc params ⟨.dry, g, sw, t⟩).frame

/-! ### The Pulse Sequencer -/

/-- R71, R72: the word of each kind. -/
def Obligations.ElementWordOfEachKind : Prop :=
  elemWord params .hdrMark = 0x011FF#17 ∧ elemWord params .hdrSpace = 0x02DA4#17 ∧
  elemWord params .bitMark = 0x051FF#17 ∧ elemWord params .zeroSpace = 0x06224#17 ∧
  elemWord params .oneSpace = 0x08604#17 ∧ elemWord params .ftrMark = 0x0B1FF#17 ∧
  elemWord params .ftrSpace = 0x0CDA4#17 ∧ elemWord params .endMark = 0x1F1FF#17

/-- R100 to R103: `elem` at each index of every frame, and it is the header, the data and the footer in order. -/
def Obligations.SequenceIsHeaderDataFooter : Prop :=
  ∀ f : Frame,
    elem params f 0#7 = some .hdrMark ∧ elem params f 1#7 = some .hdrSpace ∧
    (∀ k : Nat, k < 52 → elem params f (BitVec.ofNat 7 (2 + 2 * k)) = some .bitMark ∧
      elem params f (BitVec.ofNat 7 (3 + 2 * k)) = some (if f.getLsbD (51 - k) then .oneSpace else .zeroSpace)) ∧
    elem params f 106#7 = some .ftrMark ∧ elem params f 107#7 = some .ftrSpace ∧ elem params f 108#7 = some .endMark ∧
    (pulseSequence params f).length = 109 ∧ ∀ i : SeqIdx, i.toNat ≤ 108 → (pulseSequence params f)[i.toNat]? = elem params f i

/-- R104: 55 marks and 54 spaces, alternating from a mark to a mark. -/
def Obligations.MarksAndSpacesAlternate : Prop :=
  ∀ f : Frame,
    ((pulseSequence params f).map fun k => (elLevel (elemWord params k)).toNat)
      = (List.range 109).map (fun i => (i + 1) % 2) ∧
    ((pulseSequence params f).filter fun k => elLevel (elemWord params k) == 1#1).length = 55 ∧
    ((pulseSequence params f).filter fun k => elLevel (elemWord params k) == 0#1).length = 54

/-- R111: how long the emission of a whole sequence lasts, by the delivered words, with no gap between two elements (PRESUMED,
notes/assumptions/17.md). -/
def Obligations.OnAirTimeOfSequence : Prop :=
  ∀ (f : Frame) (o : Outputs), popcount f ≤ 52 ∧
    emissionUs (emission o ((pulseSequence params f).map (elemWord params)))
      = 55 * 511 + 2 * 3492 + popcount f * 1540 + (52 - popcount f) * 548

/-- R105: the emission of any sequence drives every mark at 38000 Hz and no space. -/
def Obligations.EveryMarkIsAtTheCarrier : Prop :=
  ∀ (f : Frame) (r : Regs),
    (emission (out r) ((pulseSequence params f).map (elemWord params))).map Pulse.carrier
      = (List.range 109).map fun i => if i % 2 = 0 then some 38000#16 else none

/-- R109: the acceptance of an element, and an edge in RUN without one. -/
def Obligations.ElementAcceptance : Prop :=
  ∀ s : State, s.regs.phase = .run → s.sample.rst = false →
    (s.sample.elReady = true → s.regs.seqIdx = 108#7 → step s = .next { s.consume with
      regs := { s.regs with phase := .idle, seqIdx := 0#7 }, trace := s.trace ++ [(out s.regs).elWord] }) ∧
    (s.sample.elReady = true → s.regs.seqIdx ≠ 108#7 → step s = .next { s.consume with
      regs := { s.regs with seqIdx := s.regs.seqIdx + 1#7 }, trace := s.trace ++ [(out s.regs).elWord] }) ∧
    (s.sample.elReady = false → step s = .next s.consume)

/-- R120: the outputs, functions of the registers. -/
def Obligations.OutputsOfRegisters : Prop :=
  ∀ r : Regs,
    ((out r).cmdReady = true ↔ r.phase = .idle) ∧ ((out r).elValid = true ↔ r.phase = .run) ∧
    (r.phase = .idle → (out r).elWord = 0#17) ∧
    (∀ k, r.phase = .run → elem params r.frame r.seqIdx = some k → (out r).elWord = elemWord params k) ∧
    (out r).carrierHz = 38000#16 ∧ ((out r).statusBusy = true ↔ r.phase = .run) ∧
    (out r).statusResValid = r.resValid ∧ (out r).frameOut = r.frame ∧ (out r).outMode = r.outMode.code ∧
    (out r).outFan = r.outFan.code ∧ (out r).outSwing = r.outSwing.code ∧ (out r).outTemp = r.outTemp ∧
    (out r).seqIdx = r.seqIdx

/-- R120: the element trace gains exactly the elements delivered: at an edge with `rst` = 0 and `el_ready` = 1 in a cycle
with `el_valid` = 1, that cycle's `el_word`; at any other edge, nothing. -/
def Obligations.TraceGainsDeliveredElements : Prop :=
  ∀ s t : State, step s = .next t →
    (s.sample.rst = false → s.sample.elReady = true → (out s.regs).elValid = true →
      t.trace = s.trace ++ [(out s.regs).elWord]) ∧
    (s.sample.rst = true ∨ s.sample.elReady = false ∨ (out s.regs).elValid = false → t.trace = s.trace)

/-- R49, R113, R114: whatever the pacing, after `n` ready edges without reset the next `n` elements have been delivered in
index order, each once, and nothing else has changed. -/
def Obligations.PacingNeverChangesElements : Prop :=
  ∀ (s : State) (ins rest : List Inputs), s.regs.phase = .run → s.inputs = ins ++ rest → noReset ins = true →
    s.regs.seqIdx.toNat + readyEdges ins ≤ 108 →
    Host.Core.run Sys2Proof.core ins.length s = .next { s with
      regs := { s.regs with seqIdx := BitVec.ofNat 7 (s.regs.seqIdx.toNat + readyEdges ins) }
      inputs := rest
      trace := s.trace ++
        (((pulseSequence params s.regs.frame).drop s.regs.seqIdx.toNat).take (readyEdges ins)).map (elemWord params) }

/-- R49, R110, R121: a sequence started and paced in any way, without reset, delivers its 109 elements and leaves the block
IDLE with SEQ_IDX = 0 and every other register as it was. -/
def Obligations.WholeSequenceIsDelivered : Prop :=
  ∀ (s : State) (ins rest : List Inputs) (final : Inputs), s.regs.phase = .run → s.regs.seqIdx = 0#7 →
    s.inputs = ins ++ final :: rest → noReset ins = true → readyEdges ins = 108 →
    final.rst = false → final.elReady = true →
    Host.Core.run Sys2Proof.core (ins.length + 1) s = .next { s with
      regs := { s.regs with phase := .idle, seqIdx := 0#7 }
      inputs := rest
      trace := s.trace ++ (pulseSequence params s.regs.frame).map (elemWord params) }

/-- R145: a command held while the last element is delivered is accepted at the very next edge. -/
def Obligations.HeldCommandIsAcceptedNext : Prop :=
  ∀ (s : State) (v e : Bool) (a w : CmdWord) (rest : List Inputs), s.regs.phase = .run → s.regs.seqIdx = 108#7 →
    s.inputs = ⟨false, v, a, true⟩ :: ⟨false, true, w, e⟩ :: rest →
    Host.Core.run Sys2Proof.core 2 s = exec (decodeWord w)
      { s with regs := { s.regs with phase := .idle, seqIdx := 0#7 }, inputs := rest, trace := s.trace ++ [0x1F1FF#17] }

/-- R152: with `el_ready` = 1 throughout, a command that starts a sequence is followed by 109 busy edges, and the next
command is accepted 110 edges after the accepting edge. -/
def Obligations.NextCommandAfterOneHundredTenEdges : Prop :=
  ∀ (s u : State) (i : Instr) (e : Bool) (ins rest : List Inputs) (next : Inputs), s.regs.phase = .idle →
    s.inputs = ⟨false, true, encodeInstr i, e⟩ :: (ins ++ next :: rest) →
    exec i s = .next u → u.regs.phase = .run →
    ins.length = 109 → (∀ j ∈ ins, j.rst = false ∧ j.elReady = true) → next.rst = false → next.cmdValid = true →
    Host.Core.run Sys2Proof.core 111 s = exec (decodeWord next.cmdWord) { s with
      regs := { u.regs with phase := .idle, seqIdx := 0#7 }
      inputs := rest
      trace := s.trace ++ (pulseSequence params u.regs.frame).map (elemWord params) }

/-! ### The assembler -/

/-- R77: disassembly followed by assembly gives back the same word when its reserved bits are 0. The parts of the text that
R75 leaves open are the model's (DESIGN CHOICE, notes/assumptions/15.md, 16.md). -/
def Obligations.AssemblyOfDisassembly : Prop :=
  ∀ (fo : Frame) (w : CmdWord), (decodeWord w).wellFormed = true → assembleLine fo (disassemble w) = .ok (some w)

/-- R75: the assembler writes every reserved bit as 0, on every line it accepts. -/
def Obligations.AssemblerWritesReservedZero : Prop :=
  ∀ (fo : Frame) (line : Text) (w : CmdWord), assembleLine fo line = .ok (some w) → (decodeWord w).wellFormed = true

/-- R75: a decimal temperature is accepted exactly if `t × 256` is an integer in [-32768, 32767], and then it is that
integer: nothing is rounded. First for a decimal already read, then for its text: a minus sign or none, the digits of the
whole part, and a point and digits or neither (the forms are the model's, DESIGN CHOICE, notes/assumptions/15.md). -/
def Obligations.DecimalTemperatureIsExact : Prop :=
  (∀ (neg : Bool) (num den : Nat) (t : Temp), 0 < den →
    (q88OfDecimal neg num den = some t ↔ t.toInt * den = (if neg then -1 else 1) * ((num : Int) * 256))) ∧
  ∀ (neg : Bool) (whole frac : List (Fin 10)) (t : Temp), whole ≠ [] →
    (readTemp (decimalText neg whole frac) = some t ↔
      t.toInt * (10 ^ frac.length : Nat) =
        (if neg then -1 else 1) * (((Nat.ofDigits 10 ((whole ++ frac).map Fin.val).reverse : Nat) : Int) * 256))

/-- R76: RESEND is SEQUENCE of `frame_out`. POWEROFF of any two operand texts, refused ones too, assembles as the TRANSMIT it
expands to, with the same reason where it is refused (the reasons are the model's, notes/assumptions/22.md); and with a
temperature in either form of R75 and a swing it is TRANSMIT in mode OFF with fan LOW. The parts of the text that R75 leaves
open are the model's (DESIGN CHOICE, notes/assumptions/15.md). -/
def Obligations.PseudoInstructionsExpand : Prop :=
  (∀ fo : Frame, assembleLine fo resendText = .ok (some (encodeInstr (.sequence fo 0#10)))) ∧
  (∀ (fo : Frame) (t s : Text), (∀ c ∈ t ++ s, c ≠ ',' ∧ c ≠ ';') →
    assembleLine fo (powerOffText t s) = assembleLine fo (powerOffExpansion t s)) ∧
  ∀ (fo : Frame) (v : Text) (t : Temp) (sw : Swing), readTemp v = some t →
    assembleLine fo (powerOffText (['t', 'e', 'm', 'p', '='] ++ v) (['s', 'w', 'i', 'n', 'g', '='] ++ swingText sw))
      = .ok (some (encodeInstr (.transmit ⟨.off, .low, sw, t⟩ ⟨0#38, 0#3⟩)))
end

