-- ==== Sys2Proof/Laws/Asm.lean ====
section
/-! SUPPORT. The assembler on the texts the disassembler prints (30_encoding.md R75, R77): separators, blanks, hex digits,
operands, and one line. -/
namespace Sys2Proof.Machine

/-! ### Characters a text does not hold -/

theorem ne_of_all (d : Char) (l : Text) (h : (l.all fun c => c != d) = true) : ∀ c ∈ l, c ≠ d := by
  intro c hc
  simpa using List.all_eq_true.mp h c hc

theorem ne_append (d : Char) (a b : Text) (ha : ∀ c ∈ a, c ≠ d) (hb : ∀ c ∈ b, c ≠ d) : ∀ c ∈ a ++ b, c ≠ d := by
  intro c hc
  rcases List.mem_append.mp hc with h | h
  · exact ha c h
  · exact hb c h

theorem ne_cons (d e : Char) (b : Text) (he : e ≠ d) (hb : ∀ c ∈ b, c ≠ d) : ∀ c ∈ e :: b, c ≠ d := by
  intro c hc
  rcases List.mem_cons.mp hc with rfl | h
  · exact he
  · exact hb c h

/-! ### Blanks, comments and commas -/

theorem beforeComment_eq_self (t : Text) (h : ∀ c ∈ t, c ≠ ';') : beforeComment t = t := by
  unfold beforeComment
  rw [List.takeWhile_eq_self_iff]
  intro c hc
  simpa using h c hc

/-- A text that begins and ends with no blank. -/
theorem trim_eq_self (a : Char) (t u : Text) (b : Char) (ha : isBlank a = false) (hb : isBlank b = false)
    (h : a :: t = u ++ [b]) : trim (a :: t) = a :: t := by
  unfold trim
  rw [List.dropWhile_cons_of_neg (by simp [ha]), h, List.reverse_append, List.reverse_singleton,
    List.singleton_append, List.dropWhile_cons_of_neg (by simp [hb])]
  simp

theorem trim_blank (t : Text) : trim (' ' :: t) = trim t := by
  unfold trim
  rw [List.dropWhile_cons_of_pos (by decide)]

/-- A text with no blank. -/
theorem trim_of_no_blank (t : Text) (h : ∀ c ∈ t, isBlank c = false) : trim t = t := by
  rcases List.eq_nil_or_concat' t with rfl | ⟨u, b, hu⟩
  · rfl
  · cases t with
    | nil => rfl
    | cons a t' => exact trim_eq_self a t' u b (h a (by simp)) (h b (by rw [hu]; simp)) hu

/-- A blank at the end does not count. -/
theorem trim_concat_blank (t : Text) (b : Char) (hb : isBlank b = true) : trim (t ++ [b]) = trim t := by
  unfold trim
  have h : (t ++ [b]).dropWhile isBlank = t.dropWhile isBlank ++ [b] ∨
      (t ++ [b]).dropWhile isBlank = [] ∧ t.dropWhile isBlank = [] := by
    induction t with
    | nil => right; simp [hb]
    | cons c t ih =>
      by_cases hc : isBlank c = true
      · simpa [List.dropWhile_cons_of_pos hc] using ih
      · left
        rw [List.cons_append, List.dropWhile_cons_of_neg hc, List.dropWhile_cons_of_neg hc]
        rfl
  rcases h with h | ⟨h1, h2⟩
  · rw [h, List.reverse_append, List.reverse_singleton, List.singleton_append, List.dropWhile_cons_of_pos hb]
  · rw [h1, h2]

theorem trim_ne_nil (a : Char) (t : Text) (ha : isBlank a = false) : trim (a :: t) ≠ [] := by
  unfold trim
  rw [List.dropWhile_cons_of_neg (by simp [ha])]
  intro h
  have h1 := List.reverse_eq_nil_iff.mp h
  rw [List.dropWhile_eq_nil_iff] at h1
  simpa [ha] using h1 a (by simp)

theorem pieces_none (sep : Char) (t : Text) (h : ∀ c ∈ t, c ≠ sep) : pieces sep t = [t] := by
  induction t with
  | nil => rfl
  | cons c t ih => rw [pieces, if_neg (h c (by simp)), ih (fun d hd => h d (by simp [hd]))]

theorem pieces_sep (sep : Char) (a b : Text) (h : ∀ c ∈ a, c ≠ sep) :
    pieces sep (a ++ sep :: b) = a :: pieces sep b := by
  induction a with
  | nil => simp [pieces]
  | cons c t ih => rw [List.cons_append, pieces, if_neg (h c (by simp)), ih (fun d hd => h d (by simp [hd]))]

/-- A text with a character that is no blank. -/
theorem trim_ne_nil_of_mem (t : Text) (c : Char) (hc : c ∈ t) (hb : isBlank c = false) : trim t ≠ [] := by
  intro h
  unfold trim at h
  have h1 := List.reverse_eq_nil_iff.mp h
  rw [List.dropWhile_eq_nil_iff] at h1
  have hm := hc
  rw [← List.takeWhile_append_dropWhile (p := isBlank) (l := t), List.mem_append] at hm
  rcases hm with hm | hm
  · exact absurd (List.mem_takeWhile_imp hm) (by simp [hb])
  · exact absurd (h1 c (by simpa using hm)) (by simp [hb])

/-- A character at the end goes to the last piece. -/
theorem pieces_concat (sep b : Char) (hb : b ≠ sep) (t : Text) :
    ∃ init last, pieces sep t = init ++ [last] ∧ pieces sep (t ++ [b]) = init ++ [last ++ [b]] := by
  induction t with
  | nil => exact ⟨[], [], rfl, by simp [pieces, hb]⟩
  | cons c t ih =>
    obtain ⟨init, last, h1, h2⟩ := ih
    by_cases hc : c = sep
    · exact ⟨[] :: init, last, by simp [pieces, hc, h1], by simp [pieces, hc, h2]⟩
    · cases init with
      | nil => exact ⟨[], c :: last, by simp [pieces, hc, h1], by simp [pieces, hc, h2]⟩
      | cons p ps => exact ⟨(c :: p) :: ps, last, by simp [pieces, hc, h1], by simp [pieces, hc, h2]⟩

/-- A blank at the end of the operands does not count. -/
theorem operandTexts_concat_blank (t : Text) (b : Char) (hb : isBlank b = true) :
    operandTexts (t ++ [b]) = operandTexts t := by
  have hsep : b ≠ ',' := by rintro rfl; exact absurd hb (by decide)
  obtain ⟨init, last, h1, h2⟩ := pieces_concat ',' b hsep t
  unfold operandTexts
  rw [trim_concat_blank t b hb, h1, h2]
  simp [trim_concat_blank last b hb]

/-! ### Hex digits -/

/-- A hex digit is no separator, and it reads back. -/
theorem hexDigit_ok : ∀ d < 16,
    hexDigit d ≠ ';' ∧ isBlank (hexDigit d) = false ∧ hexDigit d ≠ ',' ∧ hexVal (hexDigit d) = some d := by
  decide

theorem hexDigits_length (k v : Nat) : (hexDigits k v).length = k := by
  induction k generalizing v with
  | zero => rfl
  | succ k ih => simp [hexDigits, ih]

theorem hexDigits_ne (k v : Nat) (d : Char) (hd : d = ';' ∨ d = ',') : ∀ c ∈ hexDigits k v, c ≠ d := by
  induction k generalizing v with
  | zero => intro c hc; simp [hexDigits] at hc
  | succ k ih =>
    refine ne_append d _ _ (ih _) ?_
    intro c hc
    obtain rfl := List.mem_singleton.mp hc
    have h := hexDigit_ok (v % 16) (by omega)
    rcases hd with rfl | rfl
    · exact h.1
    · exact h.2.2.1

/-- A text ending in hex digits has no blank at its end. -/
theorem trim_hexDigits (a : Char) (p : Text) (ha : isBlank a = false) (k v : Nat) :
    trim (' ' :: a :: p ++ hexDigits (k + 1) v) = a :: p ++ hexDigits (k + 1) v := by
  rw [List.cons_append, trim_blank, List.cons_append]
  exact trim_eq_self a _ (a :: p ++ hexDigits k (v / 16)) (hexDigit (v % 16)) ha (hexDigit_ok _ (by omega)).2.1
    (by simp [hexDigits])

theorem readDigits_append (base : Nat) (f : Char → Option Nat) (a b : Text) (acc : Nat) :
    readDigits base f acc (a ++ b) = (readDigits base f acc a).bind fun x => readDigits base f x b := by
  induction a generalizing acc with
  | nil => rfl
  | cons c t ih => rw [List.cons_append, readDigits, readDigits]; cases f c <;> simp [ih]

theorem readDigits_hexDigits (k v acc : Nat) :
    readDigits 16 hexVal acc (hexDigits k v) = some (acc * 16 ^ k + v % 16 ^ k) := by
  induction k generalizing v acc with
  | zero => simp [hexDigits, readDigits, Nat.mod_one]
  | succ k ih =>
    rw [hexDigits, readDigits_append, ih, Option.bind_some, readDigits, (hexDigit_ok (v % 16) (by omega)).2.2.2]
    simp only [readDigits]
    congr 1
    have h : v % 16 ^ (k + 1) = v % 16 + 16 * (v / 16 % 16 ^ k) := by rw [pow_succ', Nat.mod_mul]
    rw [h, pow_succ]
    ring

/-! ### Decimal digits -/

/-- A decimal digit is none of the characters around a number, and it reads back. -/
theorem decDigit_ok : ∀ d : Fin 10,
    let c := Char.ofNat (48 + d.val)
    c ≠ '.' ∧ c ≠ '-' ∧ c ≠ 'x' ∧ decVal c = some d.val := by
  decide

theorem digitText_ne (l : List (Fin 10)) (d : Char) (hd : d = '.' ∨ d = '-' ∨ d = 'x') : ∀ c ∈ digitText l, c ≠ d := by
  intro c hc
  obtain ⟨i, -, rfl⟩ := List.mem_map.mp hc
  have h := decDigit_ok i
  rcases hd with rfl | rfl | rfl
  · exact h.1
  · exact h.2.1
  · exact h.2.2.1

/-- Decimal digits read as the number they write. -/
theorem readDigits_digitText (l : List (Fin 10)) (acc : Nat) :
    readDigits 10 decVal acc (digitText l)
      = some (acc * 10 ^ l.length + Nat.ofDigits 10 (l.map Fin.val).reverse) := by
  induction l generalizing acc with
  | nil => simp [digitText, readDigits]
  | cons d l ih =>
    rw [digitText, List.map_cons, readDigits, (decDigit_ok d).2.2.2]
    refine (ih _).trans ?_
    simp only [List.map_cons, List.reverse_cons, Nat.ofDigits_append, List.length_reverse, List.length_map,
      List.length_cons, Nat.ofDigits_singleton, pow_succ]
    congr 1
    ring

/-- TEMP as the disassembler prints it reads back. -/
theorem readTemp_hexDigits (t : Temp) : readTemp ('0' :: 'x' :: hexDigits 4 t.toNat) = some t := by
  have h : afterPrefix ['0', 'x'] ('0' :: 'x' :: hexDigits 4 t.toNat) = some (hexDigits 4 t.toNat) := rfl
  unfold readTemp
  rw [h]
  simp only [hexDigits_length, if_true, readDigits_hexDigits, Option.map_some, zero_mul, zero_add]
  rw [Nat.mod_eq_of_lt (show t.toNat < 16 ^ 4 from t.isLt)]
  simp

/-- FRM as the disassembler prints it reads back. -/
theorem readFrame_hexDigits (f : Frame) : readFrame ('0' :: 'x' :: hexDigits 13 f.toNat) = some f := by
  have h : afterPrefix ['0', 'x'] ('0' :: 'x' :: hexDigits 13 f.toNat) = some (hexDigits 13 f.toNat) := rfl
  unfold readFrame
  rw [h]
  simp only [hexDigits_length, readDigits_hexDigits, Option.map_some, zero_mul, zero_add]
  rw [Nat.mod_eq_of_lt (show f.toNat < 16 ^ 13 from f.isLt)]
  simp

/-! ### The characters of a temperature -/

/-- No separator, comment or blank. -/
abbrev PlainText (t : Text) : Prop := ∀ c ∈ t, c ≠ ',' ∧ c ≠ ';' ∧ isBlank c = false

theorem plainText_of_all (l : Text) (h : (l.all fun c => c != ',' && c != ';' && !isBlank c) = true) : PlainText l := by
  intro c hc
  simpa [and_assoc] using List.all_eq_true.mp h c hc

theorem plainText_of_readDigits (base : Nat) (digit : Char → Option Nat)
    (hd : ∀ c, (digit c).isSome = true → c ≠ ',' ∧ c ≠ ';' ∧ isBlank c = false) (t : Text) (acc n : Nat)
    (h : readDigits base digit acc t = some n) : PlainText t := by
  induction t generalizing acc with
  | nil => intro c hc; cases hc
  | cons a t ih =>
    rw [readDigits] at h
    cases ha : digit a with
    | none => rw [ha] at h; cases h
    | some d =>
      rw [ha] at h
      intro c hc
      rcases List.mem_cons.mp hc with rfl | hc
      · exact hd _ (by rw [ha]; rfl)
      · exact ih _ h c hc

theorem decVal_plain (c : Char) (h : (decVal c).isSome = true) : c ≠ ',' ∧ c ≠ ';' ∧ isBlank c = false := by
  refine ⟨?_, ?_, ?_⟩
  · rintro rfl; revert h; decide
  · rintro rfl; revert h; decide
  · by_contra hb
    have hb' : c = ' ' ∨ c = '\t' := by
      simpa only [isBlank, Bool.not_eq_false, Bool.or_eq_true, beq_iff_eq] using hb
    rcases hb' with rfl | rfl <;> (revert h; decide)

theorem hexVal_plain (c : Char) (h : (hexVal c).isSome = true) : c ≠ ',' ∧ c ≠ ';' ∧ isBlank c = false := by
  refine ⟨?_, ?_, ?_⟩
  · rintro rfl; revert h; decide
  · rintro rfl; revert h; decide
  · by_contra hb
    have hb' : c = ' ' ∨ c = '\t' := by
      simpa only [isBlank, Bool.not_eq_false, Bool.or_eq_true, beq_iff_eq] using hb
    rcases hb' with rfl | rfl <;> (revert h; decide)

/-- The text is its pieces with the separator between them. -/
theorem intercalate_pieces (sep : Char) (t : Text) : [sep].intercalate (pieces sep t) = t := by
  induction t with
  | nil => rfl
  | cons c t ih =>
    by_cases hc : c = sep
    · subst hc
      obtain ⟨p, ps, hp⟩ : ∃ p ps, pieces c t = p :: ps := by
        cases hp : pieces c t with
        | nil => rw [hp] at ih; subst ih; simp [pieces] at hp
        | cons p ps => exact ⟨p, ps, rfl⟩
      rw [pieces, if_pos rfl, hp]
      rw [hp] at ih
      simpa [List.intercalate, List.intersperse] using ih
    · rw [pieces, if_neg hc]
      cases hp : pieces sep t with
      | nil => rw [hp] at ih; subst ih; simp [pieces] at hp
      | cons p ps =>
        rw [hp] at ih
        cases ps with
        | nil => simpa [List.intercalate, List.intersperse] using ih
        | cons q qs => simpa [List.intercalate, List.intersperse] using ih

theorem afterPrefix_eq_some (p t u : Text) (h : afterPrefix p t = some u) : t = p ++ u := by
  induction p generalizing t with
  | nil => simpa [afterPrefix] using h
  | cons a p ih =>
    cases t with
    | nil => simp [afterPrefix] at h
    | cons c t =>
      rw [afterPrefix] at h
      split at h
      · next hac => rw [hac, List.cons_append, ih t h]
      · cases h

theorem plainText_of_readDecimal (t : Text) (h : (readDecimal t).isSome = true) : PlainText t := by
  have hi := intercalate_pieces '.' t
  unfold readDecimal at h
  split at h
  · next w hw =>
    rw [hw] at hi
    split at h
    · simp at h
    · rw [Option.isSome_map] at h
      obtain ⟨n, hn⟩ := Option.isSome_iff_exists.mp h
      have : t = w := by simpa [List.intercalate, List.intersperse] using hi.symm
      rw [this]
      exact plainText_of_readDigits 10 decVal decVal_plain w 0 n hn
  · next w f hw =>
    rw [hw] at hi
    split at h
    · simp at h
    · rw [Option.isSome_map] at h
      obtain ⟨n, hn⟩ := Option.isSome_iff_exists.mp h
      have ht : t = w ++ '.' :: f := by simpa [List.intercalate, List.intersperse] using hi.symm
      have hp := plainText_of_readDigits 10 decVal decVal_plain (w ++ f) 0 n hn
      intro c hc
      rw [ht] at hc
      rcases List.mem_append.mp hc with hc | hc
      · exact hp c (by simp [hc])
      · rcases List.mem_cons.mp hc with rfl | hc
        · decide
        · exact hp c (by simp [hc])
  · simp at h

/-- A text that reads as a temperature holds no separator, comment or blank. -/
theorem plainText_of_readTemp (v : Text) (t : Temp) (h : readTemp v = some t) : PlainText v := by
  unfold readTemp at h
  split at h
  · next u hu =>
    split at h
    · rw [afterPrefix_eq_some _ _ _ hu]
      obtain ⟨n, hn, -⟩ := Option.map_eq_some_iff.mp h
      have hp := plainText_of_readDigits 16 hexVal hexVal_plain u 0 n hn
      intro c hc
      simp only [List.cons_append, List.nil_append, List.mem_cons] at hc
      rcases hc with rfl | rfl | hc
      · decide
      · decide
      · exact hp c hc
    · cases h
  · split at h
    · next d hd =>
      rw [afterPrefix_eq_some _ _ _ hd]
      obtain ⟨p, hp, -⟩ := Option.bind_eq_some_iff.mp h
      have hp' := plainText_of_readDecimal d (by rw [hp]; rfl)
      intro c hc
      simp only [List.cons_append, List.nil_append, List.mem_cons] at hc
      rcases hc with rfl | hc
      · decide
      · exact hp' c hc
    · obtain ⟨p, hp, -⟩ := Option.bind_eq_some_iff.mp h
      exact plainText_of_readDecimal v (by rw [hp]; rfl)

/-! ### Lines -/

/-- Everything `assembleLine` can do with a line that begins with a mnemonic and a blank and has no comment: the command
its mnemonic and its operands make. -/
theorem assembleLine_command (fo : Frame) (m args : Text) (hm : m ≠ []) (hb' : (m.all fun c => !isBlank c) = true)
    (hc : ∀ c ∈ m ++ ' ' :: args, c ≠ ';') :
    assembleLine fo (m ++ ' ' :: args) =
      (assembleCommand fo (upper m) (operandTexts (' ' :: args))).map fun i => some (encodeInstr i) := by
  have hb : ∀ c ∈ m, isBlank c = false := by
    intro c h
    simpa using List.all_eq_true.mp hb' c h
  -- the line without the blanks at its end, which change neither the mnemonic nor the operands
  have hr : ∀ t : Text, (t = [] ∨ ∃ t', t = ' ' :: t') →
      ∃ r, (r = [] ∨ ∃ r', r = ' ' :: r') ∧ trim (m ++ t) = m ++ r ∧
        operandTexts r = operandTexts t := by
    intro t
    obtain ⟨a, m', rfl⟩ := List.exists_cons_of_ne_nil hm
    induction t using List.reverseRecOn with
    | nil =>
      intro _
      have h := trim_of_no_blank _ hb
      exact ⟨[], .inl rfl, by simpa using h, rfl⟩
    | append_singleton t b ih =>
      intro ht
      by_cases hbl : isBlank b = true
      · have ht' : t = [] ∨ ∃ t', t = ' ' :: t' := by
          cases t with
          | nil => exact .inl rfl
          | cons x xs =>
            rcases ht with ht | ⟨t', ht⟩
            · simp at ht
            · simp only [List.cons_append, List.cons.injEq] at ht
              exact .inr ⟨xs, by rw [ht.1]⟩
        obtain ⟨r, h1, h2, h3⟩ := ih ht'
        refine ⟨r, h1, ?_, ?_⟩
        · rw [← List.append_assoc, trim_concat_blank _ b hbl, h2]
        · rw [operandTexts_concat_blank t b hbl, h3]
      · have hbf : isBlank b = false := by simpa using hbl
        have h := trim_eq_self a (m' ++ (t ++ [b])) (a :: m' ++ t) b (hb a (by simp)) hbf (by simp)
        exact ⟨t ++ [b], ht, h, rfl⟩
  obtain ⟨r, h1, h2, h3⟩ := hr (' ' :: args) (.inr ⟨args, rfl⟩)
  have k1 : (m ++ r).takeWhile (fun c => !isBlank c) = m := by
    rw [List.takeWhile_append_of_pos (by intro c h; simp [hb c h])]
    rcases h1 with rfl | ⟨r', rfl⟩
    · simp
    · rw [List.takeWhile_cons_of_neg (by decide), List.append_nil]
  have k2 : (m ++ r).dropWhile (fun c => !isBlank c) = r := by
    rw [List.dropWhile_append_of_pos (by intro c h; simp [hb c h])]
    rcases h1 with rfl | ⟨r', rfl⟩
    · rfl
    · rw [List.dropWhile_cons_of_neg (by decide)]
  have hne : m ++ r ≠ [] := by simp [hm]
  unfold assembleLine
  rw [beforeComment_eq_self _ hc]
  simp only [h2, hne, if_false, k1, k2, h3]

end Sys2Proof.Machine
end

