-- ==== Sys2Proof/Laws/Codes.lean ====
section
/-! SUPPORT. The operand codes (30_encoding.md R56) and the fields of a command word. -/
namespace Sys2Proof

@[simp] theorem modeOf_code (m : Mode) : modeOf m.code = m := by cases m <;> rfl
@[simp] theorem fanOf_code (f : Fan) : fanOf f.code = f := by cases f <;> rfl
@[simp] theorem swingOf_code (s : Swing) : swingOf s.code = s := by cases s <;> rfl
@[simp] theorem code_modeOf (b : BitVec 2) : (modeOf b).code = b := by revert b; decide
@[simp] theorem code_fanOf (b : BitVec 2) : (fanOf b).code = b := by revert b; decide
@[simp] theorem code_swingOf (b : BitVec 1) : (swingOf b).code = b := by revert b; decide

/-- OP of an encoded command (R54). -/
@[simp] theorem opField_encodeInstr (i : Instr) :
    opField (encodeInstr i) =
      match i with
      | .nop _ => 0b00#2 | .encode _ _ => 0b01#2 | .sequence _ _ => 0b10#2 | .transmit _ _ => 0b11#2 := by
  cases i <;> simp only [opField, encodeInstr] <;>
    (rw [BitVec.extractLsb'_append_eq_of_le (by decide)]; rfl)

/-- OP is one of the four. -/
theorem op_cases (w : CmdWord) : opField w = 0#2 ∨ opField w = 1#2 ∨ opField w = 2#2 ∨ opField w = 3#2 := by
  have : ∀ b : BitVec 2, b = 0#2 ∨ b = 1#2 ∨ b = 2#2 ∨ b = 3#2 := by decide
  exact this _

/-- OP as a number. -/
theorem opField_toNat (w : CmdWord) : (opField w).toNat = w.toNat / 2 ^ 62 := by
  have := w.isLt
  simp [opField, Nat.shiftRight_eq_div_pow]
  omega

/-- The low part of two vectors side by side. -/
theorem getLsbD_append_low {m n : Nat} (a : BitVec m) (b : BitVec n) (i : Nat) (h : i < n) :
    (a ++ b).getLsbD i = b.getLsbD i := by
  simp [BitVec.getLsbD_append, h]

/-- The high part of two vectors side by side. -/
theorem getLsbD_append_high {m n : Nat} (a : BitVec m) (b : BitVec n) (i : Nat) :
    (a ++ b).getLsbD (n + i) = a.getLsbD i := by
  simp [BitVec.getLsbD_append]

/-- Two vectors side by side as a number. -/
theorem toNat_append_add {m n : Nat} (a : BitVec m) (b : BitVec n) :
    (a ++ b).toNat = a.toNat * 2 ^ n + b.toNat := by
  rw [BitVec.toNat_append, Nat.shiftLeft_eq, Nat.mul_comm, Nat.two_pow_add_eq_or_of_lt b.isLt]

/-- The operands and the reserved bits of an encoded format S command, whatever its OP (R55). -/
theorem fields_of_payloadS (o : BitVec 2) (c : Climate) (r : RsvdS) :
    climateField (o ++ payloadS c r) = c ∧ rsvdSField (o ++ payloadS c r) = r := by
  obtain ⟨m, f, s, t⟩ := c
  obtain ⟨hi, lo⟩ := r
  have h0 : (o ++ payloadS ⟨m, f, s, t⟩ ⟨hi, lo⟩).extractLsb' 0 2 = m.code := by
    apply BitVec.eq_of_getLsbD_eq; intro i hi
    simp only [payloadS, BitVec.getLsbD_extractLsb', BitVec.getLsbD_append]
    interval_cases i <;> simp
  have h1 : (o ++ payloadS ⟨m, f, s, t⟩ ⟨hi, lo⟩).extractLsb' 2 2 = f.code := by
    apply BitVec.eq_of_getLsbD_eq; intro i hi
    simp only [payloadS, BitVec.getLsbD_extractLsb', BitVec.getLsbD_append]
    interval_cases i <;> simp
  have h2 : (o ++ payloadS ⟨m, f, s, t⟩ ⟨hi, lo⟩).extractLsb' 4 1 = s.code := by
    apply BitVec.eq_of_getLsbD_eq; intro i hi
    simp only [payloadS, BitVec.getLsbD_extractLsb', BitVec.getLsbD_append]
    interval_cases i; simp
  have h3 : (o ++ payloadS ⟨m, f, s, t⟩ ⟨hi, lo⟩).extractLsb' 8 16 = t := by
    apply BitVec.eq_of_getLsbD_eq; intro i hi
    simp only [payloadS, BitVec.getLsbD_extractLsb', BitVec.getLsbD_append]
    interval_cases i <;> simp
  have h4 : (o ++ payloadS ⟨m, f, s, t⟩ ⟨hi, lo⟩).extractLsb' 24 38 = hi := by
    apply BitVec.eq_of_getLsbD_eq; intro i hi
    simp only [payloadS, BitVec.getLsbD_extractLsb', BitVec.getLsbD_append]
    interval_cases i <;> simp
  have h5 : (o ++ payloadS ⟨m, f, s, t⟩ ⟨hi, lo⟩).extractLsb' 5 3 = lo := by
    apply BitVec.eq_of_getLsbD_eq; intro i hi
    simp only [payloadS, BitVec.getLsbD_extractLsb', BitVec.getLsbD_append]
    interval_cases i <;> simp
  refine ⟨?_, ?_⟩
  · unfold climateField; erw [h0, h1, h2, h3]; simp
  · unfold rsvdSField; erw [h4, h5]

end Sys2Proof
end

