-- ==== Sys2Proof/Laws/Frame.lean ====
section
/-! SUPPORT. The frame as the concatenation of its fields (30_encoding.md R63), and what storing the checksum changes. -/
namespace Sys2Proof.Machine

/-- F0 (R91) is its fields side by side, with the zero ranges of R63 between them. -/
theorem frameBase_eq_append (x : FrameFields) :
    frameBase x = 0#4 ++ x.power ++ x.timerEn ++ x.timerHours ++ 0#14 ++ x.tempTens ++ x.quiet ++ x.swingCode
      ++ x.modeFan ++ x.tempOfs ++ 0#4 := by
  apply BitVec.eq_of_getLsbD_eq
  intro i hi
  simp only [frameBase, placeAt, BitVec.getLsbD_or, BitVec.getLsbD_shiftLeft, BitVec.getLsbD_setWidth,
    BitVec.getLsbD_append, BitVec.getLsbD_zero]
  interval_cases i <;> simp [BitVec.getLsbD_of_ge]

/-- Storing a checksum into a frame whose bits 3 to 0 are 0 (R94). -/
theorem or_placeAt_zero (y : BitVec 48) (k : Nibble) : ((y ++ 0#4 : Frame) ||| placeAt k 0) = y ++ k := by
  apply BitVec.eq_of_getLsbD_eq
  intro i hi
  simp only [placeAt, BitVec.getLsbD_or, BitVec.getLsbD_shiftLeft, BitVec.getLsbD_setWidth, BitVec.getLsbD_append,
    BitVec.getLsbD_zero]
  by_cases h : i < 4
  · simp [h, hi]
  · simp [h, BitVec.getLsbD_of_ge k i (by omega)]

/-- The frame (R94) is its fields side by side. -/
theorem frameOf_eq_append (x : FrameFields) :
    frameOf x = 0#4 ++ x.power ++ x.timerEn ++ x.timerHours ++ 0#14 ++ x.tempTens ++ x.quiet ++ x.swingCode
      ++ x.modeFan ++ x.tempOfs ++ checksum (frameBase x) := by
  rw [frameOf]
  conv_lhs => arg 1; rw [frameBase_eq_append]
  exact or_placeAt_zero _ _

section Fields
variable (x : FrameFields)
@[simp] theorem cksField_frameOf : (frameOf x).extractLsb' 0 4 = checksum (frameBase x) := by
  apply BitVec.eq_of_getLsbD_eq
  intro i hi
  simp only [frameOf_eq_append, BitVec.getLsbD_extractLsb', BitVec.getLsbD_append, BitVec.getLsbD_zero]
  interval_cases i <;> simp
@[simp] theorem tempOfsField_frameOf : (frameOf x).extractLsb' 4 4 = x.tempOfs := by
  apply BitVec.eq_of_getLsbD_eq
  intro i hi
  simp only [frameOf_eq_append, BitVec.getLsbD_extractLsb', BitVec.getLsbD_append, BitVec.getLsbD_zero]
  interval_cases i <;> simp
@[simp] theorem modeFanField_frameOf : (frameOf x).extractLsb' 8 8 = x.modeFan := by
  apply BitVec.eq_of_getLsbD_eq
  intro i hi
  simp only [frameOf_eq_append, BitVec.getLsbD_extractLsb', BitVec.getLsbD_append, BitVec.getLsbD_zero]
  interval_cases i <;> simp
@[simp] theorem swingCodeField_frameOf : (frameOf x).extractLsb' 16 3 = x.swingCode := by
  apply BitVec.eq_of_getLsbD_eq
  intro i hi
  simp only [frameOf_eq_append, BitVec.getLsbD_extractLsb', BitVec.getLsbD_append, BitVec.getLsbD_zero]
  interval_cases i <;> simp
@[simp] theorem quietField_frameOf : (frameOf x).extractLsb' 19 1 = x.quiet := by
  apply BitVec.eq_of_getLsbD_eq
  intro i hi
  simp only [frameOf_eq_append, BitVec.getLsbD_extractLsb', BitVec.getLsbD_append, BitVec.getLsbD_zero]
  interval_cases i
  simp
@[simp] theorem tempTensField_frameOf : (frameOf x).extractLsb' 20 4 = x.tempTens := by
  apply BitVec.eq_of_getLsbD_eq
  intro i hi
  simp only [frameOf_eq_append, BitVec.getLsbD_extractLsb', BitVec.getLsbD_append, BitVec.getLsbD_zero]
  interval_cases i <;> simp
@[simp] theorem zeroLowField_frameOf : (frameOf x).extractLsb' 24 14 = 0#14 := by
  apply BitVec.eq_of_getLsbD_eq
  intro i hi
  simp only [frameOf_eq_append, BitVec.getLsbD_extractLsb', BitVec.getLsbD_append, BitVec.getLsbD_zero]
  interval_cases i <;> simp
@[simp] theorem timerHoursField_frameOf : (frameOf x).extractLsb' 38 5 = x.timerHours := by
  apply BitVec.eq_of_getLsbD_eq
  intro i hi
  simp only [frameOf_eq_append, BitVec.getLsbD_extractLsb', BitVec.getLsbD_append, BitVec.getLsbD_zero]
  interval_cases i <;> simp
@[simp] theorem timerEnField_frameOf : (frameOf x).extractLsb' 43 1 = x.timerEn := by
  apply BitVec.eq_of_getLsbD_eq
  intro i hi
  simp only [frameOf_eq_append, BitVec.getLsbD_extractLsb', BitVec.getLsbD_append, BitVec.getLsbD_zero]
  interval_cases i
  simp
@[simp] theorem powerField_frameOf : (frameOf x).extractLsb' 44 4 = x.power := by
  apply BitVec.eq_of_getLsbD_eq
  intro i hi
  simp only [frameOf_eq_append, BitVec.getLsbD_extractLsb', BitVec.getLsbD_append, BitVec.getLsbD_zero]
  interval_cases i <;> simp
@[simp] theorem zeroTopField_frameOf : (frameOf x).extractLsb' 48 4 = 0#4 := by
  apply BitVec.eq_of_getLsbD_eq
  intro i hi
  simp only [frameOf_eq_append, BitVec.getLsbD_extractLsb', BitVec.getLsbD_append, BitVec.getLsbD_zero]
  interval_cases i <;> simp
/-- Nibble 0 of F0 is 0 (R91), so the sum of R92 may include it (90_conflicts.md C2). -/
theorem nibble_zero_frameBase : nibble (frameBase x) 0 = 0#4 := by
  apply BitVec.eq_of_getLsbD_eq
  intro i hi
  simp only [nibble, frameBase_eq_append, BitVec.getLsbD_extractLsb', BitVec.getLsbD_append, BitVec.getLsbD_zero]
  interval_cases i <;> simp
/-- Storing the checksum leaves bits 51 to 4 as they were (R94). -/
theorem getLsbD_frameOf_upper (i : Nat) (h : 4 ≤ i) : (frameOf x).getLsbD i = (frameBase x).getLsbD i := by
  have : ¬ i < 4 := by omega
  simp only [frameOf_eq_append, frameBase_eq_append, BitVec.getLsbD_append, this, if_false]
end Fields

end Sys2Proof.Machine
end

