-- ==== Sys2Proof/Laws/Encoder.lean ====
section
/-! SUPPORT. The numbers of the State Encoder: the temperature path (40_encoder.md R86 to R88)
and a frame's nibbles (R92). -/
namespace Sys2Proof.Machine

theorem q88One_eq : q88One = 256 := rfl

/-- The clamped temperature and its rounding (R86, R87), for every TIE_MODE. -/
theorem ci_bounds (tie : TieMode) (m : Mode) (t : Temp) :
    let c := c256 { params with tieMode := tie } m t
    let k := ci { params with tieMode := tie } m t
    256 * k - 128 ≤ c ∧ c ≤ 256 * k + 128 ∧ (if m = .cool then 17 else 15) ≤ k ∧ k ≤ 30 := by
  intro c k
  have hc : (if m = .cool then 17 else 15) * 256 ≤ c ∧ c ≤ 7680 := by
    simp only [c, c256, tempLo, params, q88One_eq]
    split <;> omega
  have hk : k = roundQ88 tie c := rfl
  clear_value c k
  subst hk
  unfold roundQ88
  rw [q88One_eq]
  cases tie
  · simp only; split at hc <;> simp_all <;> omega
  · simp only; split at hc <;> split <;> simp_all <;> omega
  · simp only; split at hc <;> simp_all <;> omega

/-- An integer temperature of 0 to 30 °C as its Q8.8 value (R88). -/
theorem q88OfInt_toInt (k : Int) (h1 : 0 ≤ k) (h2 : k ≤ 30) : (q88OfInt k).toInt = 256 * k := by
  unfold q88OfInt
  rw [q88One_eq, BitVec.toInt_ofInt]
  rw [Int.bmod_def]
  omega

/-- A nibble as a number (R11). -/
theorem nibble_toNat (f : Frame) (j : Nat) : (nibble f j).toNat = f.toNat / 16 ^ j % 16 := by
  simp [nibble, Nat.shiftRight_eq_div_pow, pow_mul]

end Sys2Proof.Machine
end

