-- ==== Sys2Proof/Laws/PerInstr.lean ====
section
/-! SUPPORT. Statements made per instruction: the word of every command matches its row of spec/opcode_table.json. -/
namespace Sys2Proof.Laws.TableRow

/-- The `match` of the instruction's row of spec/opcode_table.json. Every row's `mask` is 0xC000000000000000. -/
def rowMatch : Instr → CmdWord
  | .nop _        => 0x0000000000000000#64
  | .encode _ _   => 0x4000000000000000#64
  | .sequence _ _ => 0x8000000000000000#64
  | .transmit _ _ => 0xC000000000000000#64

/-- The instruction's word matches its row, and no other row. -/
def Statement (i : Instr) : Prop :=
  encodeInstr i &&& 0xC000000000000000#64 = rowMatch i

/-- The bits under the mask are OP's. -/
theorem and_mask (w : CmdWord) : w &&& 0xC000000000000000#64 = opField w ++ 0#62 := by
  apply BitVec.eq_of_toNat_eq
  rw [toNat_append_add, opField_toNat, BitVec.toNat_and]
  have h : w.toNat < 2 ^ 64 := w.isLt
  have hm : (0xC000000000000000#64).toNat = 3 * 2 ^ 62 := rfl
  have hd : w.toNat = w.toNat / 2 ^ 62 * 2 ^ 62 + w.toNat % 2 ^ 62 := by omega
  apply Nat.eq_of_testBit_eq
  intro i
  rw [hm, Nat.testBit_and]
  simp only [BitVec.toNat_ofNat, Nat.zero_mod, Nat.add_zero, Nat.testBit_mul_two_pow, Nat.testBit_div_two_pow]
  by_cases hi : 62 ≤ i
  · simp only [hi, decide_true, Bool.true_and, Nat.sub_add_cancel hi]
    by_cases h2 : i < 64
    · have : i = 62 ∨ i = 63 := by omega
      rcases this with rfl | rfl
      · simp
      · simp only [show (3 : Nat).testBit (63 - 62) = true by decide, Bool.and_true]
    · rw [Nat.testBit_lt_two_pow (Nat.lt_of_lt_of_le h (Nat.pow_le_pow_right (by omega) (by omega)))]
      simp
  · simp [hi]

theorem nop (r : BitVec 62) : Statement (.nop r) := by
  rw [Statement, and_mask, opField_encodeInstr]
  exact (by decide : (0#2 ++ 0#62 : BitVec 64) = 0x0000000000000000#64)

theorem encode (x : Climate) (r : RsvdS) : Statement (.encode x r) := by
  rw [Statement, and_mask, opField_encodeInstr]
  exact (by decide : (1#2 ++ 0#62 : BitVec 64) = 0x4000000000000000#64)

theorem sequence (f : Frame) (r : BitVec 10) : Statement (.sequence f r) := by
  rw [Statement, and_mask, opField_encodeInstr]
  exact (by decide : (2#2 ++ 0#62 : BitVec 64) = 0x8000000000000000#64)

theorem transmit (x : Climate) (r : RsvdS) : Statement (.transmit x r) := by
  rw [Statement, and_mask, opField_encodeInstr]
  exact (by decide : (3#2 ++ 0#62 : BitVec 64) = 0xC000000000000000#64)

end Sys2Proof.Laws.TableRow
end

