-- ==== Sys2Proof/Laws/State.lean ====
section
/-! SUPPORT. What each named operation leaves in each field of the registers and of the state. -/
namespace Sys2Proof.Machine

section Results
variable (x : Climate) (e : EncResult) (r : Regs)
@[simp] theorem writeResults_phase : (r.writeResults x e).phase = r.phase := rfl
@[simp] theorem writeResults_seqIdx : (r.writeResults x e).seqIdx = r.seqIdx := rfl
@[simp] theorem writeResults_frame : (r.writeResults x e).frame = e.frame := rfl
@[simp] theorem writeResults_outMode : (r.writeResults x e).outMode = x.mode := rfl
@[simp] theorem writeResults_outFan : (r.writeResults x e).outFan = e.fanOut := rfl
@[simp] theorem writeResults_outSwing : (r.writeResults x e).outSwing = x.swing := rfl
@[simp] theorem writeResults_outTemp : (r.writeResults x e).outTemp = e.tempOut := rfl
@[simp] theorem writeResults_resValid : (r.writeResults x e).resValid = true := rfl
end Results

section Sequence
variable (f : Frame) (r : Regs)
@[simp] theorem loadFrame_phase : (r.loadFrame f).phase = r.phase := rfl
@[simp] theorem loadFrame_seqIdx : (r.loadFrame f).seqIdx = r.seqIdx := rfl
@[simp] theorem loadFrame_frame : (r.loadFrame f).frame = f := rfl
@[simp] theorem loadFrame_outMode : (r.loadFrame f).outMode = r.outMode := rfl
@[simp] theorem loadFrame_outFan : (r.loadFrame f).outFan = r.outFan := rfl
@[simp] theorem loadFrame_outSwing : (r.loadFrame f).outSwing = r.outSwing := rfl
@[simp] theorem loadFrame_outTemp : (r.loadFrame f).outTemp = r.outTemp := rfl
@[simp] theorem loadFrame_resValid : (r.loadFrame f).resValid = r.resValid := rfl
@[simp] theorem startRun_phase : r.startRun.phase = .run := rfl
@[simp] theorem startRun_seqIdx : r.startRun.seqIdx = 0#7 := rfl
@[simp] theorem startRun_frame : r.startRun.frame = r.frame := rfl
@[simp] theorem startRun_outMode : r.startRun.outMode = r.outMode := rfl
@[simp] theorem startRun_outFan : r.startRun.outFan = r.outFan := rfl
@[simp] theorem startRun_outSwing : r.startRun.outSwing = r.outSwing := rfl
@[simp] theorem startRun_outTemp : r.startRun.outTemp = r.outTemp := rfl
@[simp] theorem startRun_resValid : r.startRun.resValid = r.resValid := rfl
@[simp] theorem endRun_phase : r.endRun.phase = .idle := rfl
@[simp] theorem endRun_seqIdx : r.endRun.seqIdx = 0#7 := rfl
@[simp] theorem endRun_frame : r.endRun.frame = r.frame := rfl
@[simp] theorem endRun_outMode : r.endRun.outMode = r.outMode := rfl
@[simp] theorem endRun_outFan : r.endRun.outFan = r.outFan := rfl
@[simp] theorem endRun_outSwing : r.endRun.outSwing = r.outSwing := rfl
@[simp] theorem endRun_outTemp : r.endRun.outTemp = r.outTemp := rfl
@[simp] theorem endRun_resValid : r.endRun.resValid = r.resValid := rfl
end Sequence

section Advance
variable (r : Regs)
@[simp] theorem lastIdx_eq : lastIdx = 108#7 := rfl
theorem advance_last (h : r.seqIdx = 108#7) : r.advance = r.endRun := by simp [Regs.advance, h]
theorem advance_next (h : r.seqIdx ≠ 108#7) : r.advance = { r with seqIdx := r.seqIdx + 1#7 } := by
  simp [Regs.advance, h]
@[simp] theorem advance_frame : r.advance.frame = r.frame := by unfold Regs.advance; split <;> rfl
@[simp] theorem advance_outMode : r.advance.outMode = r.outMode := by unfold Regs.advance; split <;> rfl
@[simp] theorem advance_outFan : r.advance.outFan = r.outFan := by unfold Regs.advance; split <;> rfl
@[simp] theorem advance_outSwing : r.advance.outSwing = r.outSwing := by unfold Regs.advance; split <;> rfl
@[simp] theorem advance_outTemp : r.advance.outTemp = r.outTemp := by unfold Regs.advance; split <;> rfl
@[simp] theorem advance_resValid : r.advance.resValid = r.resValid := by unfold Regs.advance; split <;> rfl
end Advance

section States
variable (s : State)
@[simp] theorem resetEdge_regs : s.resetEdge.regs = Regs.reset := rfl
@[simp] theorem resetEdge_inputs : s.resetEdge.inputs = s.inputs := rfl
@[simp] theorem resetEdge_freeIdx : s.resetEdge.freeIdx = s.freeIdx := rfl
@[simp] theorem resetEdge_trace : s.resetEdge.trace = s.trace := rfl
@[simp] theorem deliver_regs : s.deliver.regs = s.regs.advance := rfl
@[simp] theorem deliver_inputs : s.deliver.inputs = s.inputs := rfl
@[simp] theorem deliver_freeIdx : s.deliver.freeIdx = s.freeIdx := rfl
@[simp] theorem deliver_trace : s.deliver.trace = s.trace ++ [(out s.regs).elWord] := rfl
@[simp] theorem consume_regs : s.consume.regs = s.regs := by unfold State.consume; split <;> rfl
@[simp] theorem consume_trace : s.consume.trace = s.trace := by unfold State.consume; split <;> rfl
theorem sample_of_inputs {s : State} {inp : Inputs} {rest : List Inputs} (h : s.inputs = inp :: rest) : s.sample = inp := by
  simp [State.sample, h]
theorem consume_of_inputs {s : State} {inp : Inputs} {rest : List Inputs} (h : s.inputs = inp :: rest) :
    s.consume = { s with inputs := rest } := by simp [State.consume, h]

/-- In IDLE an accepted command's writes happen, to the registers alone. -/
theorem accept_idle (write : Regs → Regs) (h : s.regs.phase = .idle) :
    s.accept write = { s with regs := write s.regs } := by simp [State.accept, h]
/-- In RUN no command is accepted. -/
theorem accept_run (write : Regs → Regs) (h : s.regs.phase = .run) : s.accept write = s := by simp [State.accept, h]
@[simp] theorem accept_trace (write : Regs → Regs) : (s.accept write).trace = s.trace := by
  unfold State.accept; split <;> rfl
@[simp] theorem accept_inputs (write : Regs → Regs) : (s.accept write).inputs = s.inputs := by
  unfold State.accept; split <;> rfl
@[simp] theorem accept_freeIdx (write : Regs → Regs) : (s.accept write).freeIdx = s.freeIdx := by
  unfold State.accept; split <;> rfl
end States

section Outputs
variable (r : Regs)
@[simp] theorem out_frameOut : (out r).frameOut = r.frame := rfl
@[simp] theorem out_outTemp : (out r).outTemp = r.outTemp := rfl
@[simp] theorem out_outFan : (out r).outFan = r.outFan.code := rfl
@[simp] theorem out_seqIdx : (out r).seqIdx = r.seqIdx := rfl
/-- In RUN the offered word is `elemWordAt` at FRAME and SEQ_IDX. -/
theorem out_elWord_run (h : r.phase = .run) : (out r).elWord = elemWordAt params r.frame r.seqIdx := by simp [out, h]
/-- In IDLE `el_word` is 0. -/
theorem out_elWord_idle (h : r.phase = .idle) : (out r).elWord = 0#17 := by simp [out, h]
end Outputs

end Sys2Proof.Machine
end

