-- ==== Sys2Proof/Laws/Step.lean ====
section
/-! SUPPORT. What one step can do, said once: each case of the clock step (42_transmit_nop.md R119), and runs over a
listed sample. -/
namespace Sys2Proof.Machine

variable {s t : State}

/-- What an accepted command does (R118), by its command. -/
theorem exec_idle (i : Instr) (h : s.regs.phase = .idle) :
    exec i s = .next { s with regs :=
      match i with
      | .nop _        => s.regs
      | .encode x _   => s.regs.writeResults x (enc params x)
      | .sequence f _ => (s.regs.loadFrame f).startRun
      | .transmit x _ => (s.regs.writeResults x (enc params x)).startRun } := by
  cases i <;> simp [exec, execNop, execEncode, execSequence, execTransmit, State.accept, h]

theorem step_reset (h : s.sample.rst = true) : step s = .next s.consume.resetEdge := by simp [step, edge, h]

theorem step_command (hr : s.sample.rst = false) (hp : s.regs.phase = .idle) (hv : s.sample.cmdValid = true) :
    step s = exec (decodeWord s.sample.cmdWord) s.consume := by simp [step, edge, hr, hp, hv]

theorem step_idle (hr : s.sample.rst = false) (hp : s.regs.phase = .idle) (hv : s.sample.cmdValid = false) :
    step s = .next s.consume := by simp [step, edge, hr, hp, hv]

theorem step_deliver (hr : s.sample.rst = false) (hp : s.regs.phase = .run) (he : s.sample.elReady = true) :
    step s = .next s.consume.deliver := by simp [step, edge, hr, hp, he]

theorem step_stall (hr : s.sample.rst = false) (hp : s.regs.phase = .run) (he : s.sample.elReady = false) :
    step s = .next s.consume := by simp [step, edge, hr, hp, he]

/-- Everything a step can be: an edge is a reset, an accepted command, a waiting edge, or an accepted element. -/
theorem step_cases (s : State) :
    (s.sample.rst = true ∧ step s = .next s.consume.resetEdge) ∨
    (s.sample.rst = false ∧ s.regs.phase = .idle ∧ s.sample.cmdValid = true ∧
      step s = exec (decodeWord s.sample.cmdWord) s.consume) ∨
    (s.sample.rst = false ∧ s.regs.phase = .idle ∧ s.sample.cmdValid = false ∧ step s = .next s.consume) ∨
    (s.sample.rst = false ∧ s.regs.phase = .run ∧ s.sample.elReady = true ∧ step s = .next s.consume.deliver) ∨
    (s.sample.rst = false ∧ s.regs.phase = .run ∧ s.sample.elReady = false ∧ step s = .next s.consume) := by
  cases hr : s.sample.rst
  · cases hp : s.regs.phase
    · cases hv : s.sample.cmdValid
      · simp [step_idle hr hp hv]
      · simp [step_command hr hp hv]
    · cases he : s.sample.elReady
      · simp [step_stall hr hp he]
      · simp [step_deliver hr hp he]
  · simp [step_reset hr]

/-- A run of one more step. -/
theorem run_succ (n : Nat) (h : step s = .next t) :
    Host.Core.run Sys2Proof.core (n + 1) s = Host.Core.run Sys2Proof.core n t := by
  have h' : Sys2Proof.core.step s = .next t := h
  simp only [Host.Core.run, h']

@[simp] theorem run_zero : Host.Core.run Sys2Proof.core 0 s = .next s := rfl

end Sys2Proof.Machine
end

