-- ==== Sys2Proof/Laws/Sequence.lean ====
section
/-! SUPPORT. The pulse sequence as a list and as `elem` (41_sequencer.md R100 to R103), and runs that
follow one another. -/
namespace Sys2Proof.Machine

/-- FRAME_BITS of `params` is the width of the type `Frame`. -/
theorem params_frameBits : params.frameBits = frameBits := rfl

/-- The sequence with the frame's width written out. -/
theorem pulseSequence_eq (f : Frame) : pulseSequence params f =
    [.hdrMark, .hdrSpace] ++ (List.range 52).flatMap (fun k => [.bitMark, dataSpace params f k])
      ++ [.ftrMark, .ftrSpace, .endMark] := rfl

/-- `n` data bits are `2 n` elements (R102). -/
theorem data_length (f : Frame) (n : Nat) :
    ((List.range n).flatMap (fun k => [ElemKind.bitMark, dataSpace params f k])).length = 2 * n := by
  induction n with
  | zero => rfl
  | succ n ih => rw [List.range_succ, List.flatMap_append, List.length_append, ih]; simp; ring

/-- SEQ_LEN (R100). -/
theorem pulseSequence_length (f : Frame) : (pulseSequence params f).length = 109 := by
  rw [pulseSequence_eq, List.length_append, List.length_append, data_length]; rfl

/-- The elements of the data (R102). -/
theorem data_getElem? (f : Frame) (n i : Nat) (h : i < 2 * n) :
    ((List.range n).flatMap (fun k => [ElemKind.bitMark, dataSpace params f k]))[i]? =
      some (if i % 2 = 0 then .bitMark else dataSpace params f (i / 2)) := by
  induction n with
  | zero => omega
  | succ n ih =>
    rw [List.range_succ, List.flatMap_append]
    by_cases h' : i < 2 * n
    · rw [List.getElem?_append_left (by rw [data_length]; exact h'), ih h']
    · rw [List.getElem?_append_right (by rw [data_length]; omega), data_length]
      obtain rfl | rfl : i = 2 * n ∨ i = 2 * n + 1 := by omega
      · simp
      · simp [show (2 * n + 1) / 2 = n by omega]

/-- The sequence is `elem`, index by index (R100). -/
theorem pulseSequence_getElem? (f : Frame) (n : Nat) (h : n ≤ 108) : (pulseSequence params f)[n]? = elemAt params f n := by
  have fb : params.frameBits = 52 := rfl
  rw [pulseSequence_eq]
  unfold elemAt
  rw [fb]
  by_cases h0 : n = 0
  · subst h0; rfl
  by_cases h1 : n = 1
  · subst h1; rfl
  by_cases h2 : n ≤ 105
  · rw [List.append_assoc, List.getElem?_append_right (by simp; omega),
      List.getElem?_append_left (by rw [data_length]; simp; omega), data_getElem? _ _ _ (by simp; omega)]
    simp [h0, h1, h2]
    have : (n - 2) % 2 = n % 2 := by omega
    rw [this]
    split <;> simp_all
  · rw [List.getElem?_append_right (by rw [List.length_append, data_length]; simp; omega),
      List.length_append, data_length]
    obtain rfl | rfl | rfl : n = 106 ∨ n = 107 ∨ n = 108 := by omega
    all_goals rfl

/-- A function over the sequence. -/
theorem map_pulseSequence {α : Type} (f : Frame) (g : ElemKind → α) :
    (pulseSequence params f).map g =
      [g .hdrMark, g .hdrSpace] ++ (List.range 52).flatMap (fun k => [g .bitMark, g (dataSpace params f k)]) ++
        [g .ftrMark, g .ftrSpace, g .endMark] := by
  rw [pulseSequence_eq]; simp [List.map_flatMap]

/-- A run of `n` steps and then `m` more. -/
theorem run_add (n m : Nat) (s t : State) (h : Host.Core.run Sys2Proof.core n s = .next t) :
    Host.Core.run Sys2Proof.core (n + m) s = Host.Core.run Sys2Proof.core m t := by
  induction n generalizing s with
  | zero => cases (run_zero.symm.trans h); simp
  | succ n ih =>
    cases hu : step s with
    | next u =>
      rw [run_succ _ hu] at h
      rw [show n + 1 + m = (n + m) + 1 by omega, run_succ _ hu]
      exact ih _ h
    | fault r => exact nomatch r
    | refused r =>
      have h' : Sys2Proof.core.step s = .refused r := hu
      simp only [Host.Core.run, h'] at h
      cases h

end Sys2Proof.Machine
end

