-- ==== Sys2Proof/Tests/Slice0.lean ====
section
/-! SUPPORT. Tests against the vectors of spec/95_test_vectors.md, and a witness for the hypotheses of each statement. The
expected values are the spec's. -/
namespace Sys2Proof.Tests
open Sys2Proof Sys2Proof.Machine

/-! ### Helpers -/

/-- A machine with these registers and these samples to come. -/
def machine (r : Regs) (l : List Inputs) : State := { regs := r, inputs := l, freeIdx := 0, trace := [] }

/-- The next state of a step, if it has one. -/
def nextOf (o : Host.Outcome State Fault Refusal) : Option State :=
  match o with
  | .next t    => some t
  | .fault _   => none
  | .refused _ => none

/-- The registers after one edge. -/
def regsAfter (r : Regs) (inp : Inputs) : Option Regs := (nextOf (step (machine r [inp]))).map State.regs

/-- The elements delivered at one edge. -/
def traceAfter (r : Regs) (inp : Inputs) : Option (List ElWord) := (nextOf (step (machine r [inp]))).map State.trace

/-- S1 of section 2.6. -/
def s1 : Regs :=
  { phase := .run, seqIdx := 0#7, frame := 0x0300000220879#52, outMode := .cool, outFan := .high, outSwing := .off,
    outTemp := 0x1600#16, resValid := true }

/-- S1 at an index. -/
def s1At (i : SeqIdx) : Regs := { s1 with seqIdx := i }

/-- IDLE after S1. -/
def s1Idle : Regs := { s1 with phase := .idle }

/-- A command offered. -/
def offer (w : CmdWord) : Inputs := ⟨false, true, w, false⟩
/-- The transmitter ready, no command. -/
def ready : Inputs := ⟨false, false, 0#64, true⟩
/-- Nothing offered, the transmitter not ready. -/
def quiet : Inputs := ⟨false, false, 0#64, false⟩
/-- Reset, with a command offered and the transmitter ready. -/
def resetIn : Inputs := ⟨true, true, 0xC000000000166609#64, true⟩

/-! ### Form: a term of each constructor that the check refuses, and one it accepts -/

theorem test_wellFormed_refuses_nop : (Instr.nop 1#62).wellFormed = false := by decide
theorem test_wellFormed_refuses_encode : (Instr.encode ⟨.cool, .high, .off, 0x1600#16⟩ ⟨0#38, 4#3⟩).wellFormed = false := by
  decide
theorem test_wellFormed_refuses_sequence : (Instr.sequence 0#52 0x200#10).wellFormed = false := by decide
theorem test_wellFormed_refuses_transmit :
    (Instr.transmit ⟨.cool, .high, .off, 0x1600#16⟩ ⟨1#38, 0#3⟩).wellFormed = false := by decide
theorem test_wellFormed_accepts : (Instr.encode ⟨.dry, .quiet, .horizontal, 0x8000#16⟩ RsvdS.zero).wellFormed = true := by
  decide

/-! ### Decoding: the words of section 2.1 -/

theorem test_decode_nop : decodeWord 0x0000000000000000#64 = .nop 0#62 := by decide
theorem test_decode_nop_rsvd : decodeWord 0x3FFFFFFFFFFFFFFF#64 = .nop 0x3FFFFFFFFFFFFFFF#62 := by decide
theorem test_decode_encode :
    decodeWord 0x4000000000166609#64 = .encode ⟨.cool, .high, .off, 0x1666#16⟩ ⟨0#38, 0#3⟩ := by decide
theorem test_decode_encode_rsvd :
    decodeWord 0x7FFFFFFFFF1666FC#64 = .encode ⟨.off, .quiet, .horizontal, 0x1666#16⟩ ⟨0x3FFFFFFFFF#38, 7#3⟩ := by decide
theorem test_decode_sequence : decodeWord 0x8008000000000001#64 = .sequence 0x8000000000001#52 0#10 := by decide
theorem test_decode_sequence_rsvd : decodeWord 0xBFF0000000000000#64 = .sequence 0#52 0x3FF#10 := by decide
theorem test_decode_transmit :
    decodeWord 0xC000000000166609#64 = .transmit ⟨.cool, .high, .off, 0x1666#16⟩ ⟨0#38, 0#3⟩ := by decide
theorem test_decode_transmit_min :
    decodeWord 0xC00000000080001F#64 = .transmit ⟨.dry, .quiet, .horizontal, 0x8000#16⟩ ⟨0#38, 0#3⟩ := by decide
/-- The word of scenario 2 (section 1.2), from its operands. -/
theorem test_encodeInstr_transmit :
    encodeInstr (.transmit ⟨.heat, .quiet, .horizontal, 0x0E00#16⟩ RsvdS.zero) = 0xC0000000000E001E#64 := by decide
theorem test_decodeTableWord :
    decodeTableWord 64 0x8008000000000001 = some (.sequence 0x8000000000001#52 0#10) := by decide

/-! ### The State Encoder: sections 1 and 2.2 -/

/-- The frame of an encoding. -/
def frameFor (m : Mode) (f : Fan) (s : Swing) (t : Temp) : Frame := (enc params ⟨m, f, s, t⟩).frame

theorem test_enc_scenario_1 : enc params ⟨.cool, .high, .off, 0x1666#16⟩ = ⟨0x0300000220879#52, .high, 0x1600#16⟩ := by
  decide
theorem test_enc_scenario_2 :
    enc params ⟨.heat, .quiet, .horizontal, 0x0E00#16⟩ = ⟨0x03000001C010E#52, .quiet, 0x0F00#16⟩ := by decide
theorem test_enc_scenario_3 :
    enc params ⟨.dry, .medium, .horizontal, 0x1F00#16⟩ = ⟨0x03000003424F0#52, .medium, 0x1E00#16⟩ := by decide
theorem test_enc_heat_medium : enc params ⟨.heat, .medium, .off, 0x1600#16⟩ = ⟨0x0300000220170#52, .low, 0x1600#16⟩ := by
  decide
theorem test_enc_mode_fan_table :
    [frameFor .heat .high .off 0x1600#16, frameFor .heat .low .off 0x1600#16, frameFor .heat .quiet .off 0x1600#16,
      frameFor .dry .quiet .off 0x1600#16, frameFor .cool .medium .off 0x1600#16, frameFor .cool .low .off 0x1600#16,
      frameFor .cool .quiet .off 0x1600#16, frameFor .off .quiet .horizontal 0x1600#16]
    = [0x030000022037E#52, 0x0300000220170#52, 0x03000002A0178#52, 0x030000022247B#52, 0x030000022117F#52,
      0x030000022227D#52, 0x03000002A2275#52, 0x000000024227E#52] := by decide

/-! ### Clamping and rounding: section 2.3, by TEMP and OUT_TEMP -/

/-- OUT_TEMP of an encoding. -/
def tempFor (m : Mode) (t : Temp) : Temp := (enc params ⟨m, .low, .off, t⟩).tempOut

theorem test_temp_cool :
    [tempFor .cool 0x8000#16, tempFor .cool 0x1080#16, tempFor .cool 0x117F#16, tempFor .cool 0x1180#16,
      tempFor .cool 0x1D80#16, tempFor .cool 0x7FFF#16]
    = [0x1100#16, 0x1100#16, 0x1100#16, 0x1200#16, 0x1E00#16, 0x1E00#16] := by decide
theorem test_temp_heat :
    [tempFor .heat 0x8000#16, tempFor .heat 0x0F7F#16, tempFor .heat 0x0F80#16, tempFor .heat 0x1380#16,
      tempFor .heat 0x1D7F#16, tempFor .heat 0x1E80#16]
    = [0x0F00#16, 0x0F00#16, 0x1000#16, 0x1400#16, 0x1D00#16, 0x1E00#16] := by decide
theorem test_temp_frames :
    [frameFor .cool .low .off 0x8000#16, frameFor .heat .low .off 0x0F80#16, frameFor .cool .low .off 0x1380#16,
      frameFor .heat .low .off 0x1D7F#16, frameFor .cool .low .off 0x1E80#16]
    = [0x0300000122223#52, 0x0300000120117#52, 0x030000022225F#52, 0x03000002201E9#52, 0x03000003222F4#52] := by decide

/-! ### The Pulse Sequencer: sections 2.4 and 2.5 -/

/-- `el_word` in RUN. -/
def wordAt (f : Frame) (i : SeqIdx) : ElWord := (out { Regs.reset with phase := .run, frame := f, seqIdx := i }).elWord

theorem test_elements :
    [wordAt 0x0300000220879#52 0#7, wordAt 0x0300000220879#52 1#7, wordAt 0x0300000220879#52 2#7,
      wordAt 0x0300000220879#52 3#7, wordAt 0x0300000220879#52 15#7, wordAt 0x0300000220879#52 105#7,
      wordAt 0x0300000220879#52 106#7, wordAt 0x0300000220879#52 107#7, wordAt 0x0300000220879#52 108#7]
    = [0x011FF#17, 0x02DA4#17, 0x051FF#17, 0x06224#17, 0x08604#17, 0x08604#17, 0x0B1FF#17, 0x0CDA4#17, 0x1F1FF#17] := by
  decide
theorem test_bit_order :
    [wordAt 0x8000000000001#52 3#7, wordAt 0x8000000000001#52 5#7, wordAt 0x8000000000001#52 103#7,
      wordAt 0x8000000000001#52 105#7] = [0x08604#17, 0x06224#17, 0x06224#17, 0x08604#17] := by decide
theorem test_onAir :
    [onAirUs params (pulseSequence params 0x0000000000000#52), onAirUs params (pulseSequence params 0x0300000220879#52)]
    = [63585, 73505] := by decide

/-! ### The clock step: section 2.6 -/

theorem test_step_1_reset : regsAfter (s1At 119#7) resetIn = some Regs.reset := by decide
theorem test_step_2_idle_ready : regsAfter Regs.reset ready = some Regs.reset := by decide
theorem test_step_3_transmit : regsAfter Regs.reset (offer 0xC000000000166609#64) = some s1 := by decide
theorem test_step_4_stall : regsAfter s1 quiet = some s1 := by decide
theorem test_step_5_run_command : regsAfter s1 (offer 0x4000000000000000#64) = some s1 := by decide
theorem test_step_6_element : regsAfter s1 ready = some (s1At 1#7) := by decide
theorem test_step_6_delivered : traceAfter s1 ready = some [0x011FF#17] := by decide
theorem test_step_7_element : regsAfter (s1At 107#7) ready = some (s1At 108#7) := by decide
theorem test_step_8_last : regsAfter (s1At 108#7) ⟨false, true, 0#64, true⟩ = some s1Idle := by decide
theorem test_step_8_delivered : traceAfter (s1At 108#7) ⟨false, true, 0#64, true⟩ = some [0x1F1FF#17] := by decide
theorem test_step_9_abandoned : traceAfter (s1At 40#7) resetIn = some [] := by decide
theorem test_step_10_sequence :
    regsAfter Regs.reset (offer 0x8008000000000001#64)
      = some { Regs.reset with phase := .run, frame := 0x8000000000001#52 } := by decide
theorem test_step_11_nop : regsAfter s1Idle (offer 0x3FFFFFFFFFFFFFFF#64) = some s1Idle := by decide
/-- Section 3.2, edge 1: an ENCODE that downgrades the fan. -/
theorem test_step_encode :
    regsAfter Regs.reset (offer 0x4000000000190016#64)
      = some ⟨.idle, 0#7, 0x03000002401AB#52, .heat, .low, .horizontal, 0x1900#16, true⟩ := by decide
/-- Section 3.4, edge 2: reserved bits change nothing. -/
theorem test_step_encode_rsvd :
    regsAfter Regs.reset (offer 0x7FFFFFFFFF1666FC#64)
      = some ⟨.idle, 0#7, 0x000000024227E#52, .off, .quiet, .horizontal, 0x1600#16, true⟩ := by decide
theorem test_withFetchWord :
    (nextOf (step (State.reset.withFetchWord 64 0xC000000000166609))).map State.regs = some s1 := by decide

/-! ### The assembler: the lines of section 3 -/

theorem test_assemble_transmit :
    (assembleLine 0#52 "TRANSMIT mode=COOL, fan=QUIET, swing=OFF, temp=26.25   ; comment".toList).toOption
      = some (some 0xC0000000001A400D#64) := by decide
theorem test_assemble_encode :
    (assembleLine 0#52 "encode mode=heat, fan=low,    swing=Horizontal, temp=0x1900".toList).toOption
      = some (some 0x4000000000190012#64) := by decide
theorem test_assemble_refuses : (assembleLine 0#52 "TRANSMIT mode=COOL, fan=HIGH, swing=OFF, temp=22.4".toList).toOption = none := by
  decide
theorem test_assemble_powerOff :
    (assembleLine 0#52 "POWEROFF temp=22.0, swing=HORIZONTAL".toList).toOption = some (some 0xC000000000160010#64) := by
  decide
theorem test_disassemble_rsvd :
    disassemble 0x7FFFFFFFFF1666FC#64
      = "ENCODE mode=OFF, fan=QUIET, swing=HORIZONTAL, temp=0x1666, rsvd=0x1FFFFFFFFFF".toList := by decide
theorem test_disassemble_nop : disassemble 0x3FFFFFFFFFFFFFFF#64 = "NOP, rsvd=0x3FFFFFFFFFFFFFFF".toList := by decide

/-! ### Witnesses: states and operands that meet the hypotheses of each statement -/

theorem witness_DecoderReadsOperandSlices :
    (0x3FFFFFFFFFFFFFFF#64 : CmdWord).toNat / 2 ^ 62 = 0 ∧ (0x4000000000000000#64 : CmdWord).toNat / 2 ^ 62 = 1 ∧
    (0x7FFFFFFFFFFFFFFF#64 : CmdWord).toNat / 2 ^ 62 = 1 ∧ (0x8000000000000000#64 : CmdWord).toNat / 2 ^ 62 = 2 ∧
    (0xFFFFFFFFFFFFFFFF#64 : CmdWord).toNat / 2 ^ 62 = 3 := by decide
theorem witness_ReservedBitsChangeNothing_nop :
    (0#64 : CmdWord).toNat / 2 ^ 62 = 0 ∧ (0x3FFFFFFFFFFFFFFF#64 : CmdWord).toNat / 2 ^ 62 = 0 := by decide
theorem witness_ReservedBitsChangeNothing_state :
    (0x7FFFFFFFFF1666FC#64 : CmdWord) &&& 0xC000000000FFFF1F#64 = 0x400000000016661C#64 &&& 0xC000000000FFFF1F#64 ∧
    (0x7FFFFFFFFF1666FC#64 : CmdWord).toNat / 2 ^ 62 % 2 = 1 := by decide
theorem witness_ReservedBitsChangeNothing_frame :
    (0xBFF0000000000001#64 : CmdWord) &&& 0xC00FFFFFFFFFFFFF#64 = 0x8000000000000001#64 &&& 0xC00FFFFFFFFFFFFF#64 ∧
    (0xBFF0000000000001#64 : CmdWord).toNat / 2 ^ 62 = 2 := by decide
theorem witness_ResetEdgeGivesReset : (machine (s1At 119#7) [resetIn]).sample.rst = true := by decide
theorem witness_ResetBeatsHandshakes :
    (machine (s1At 40#7) [resetIn]).sample.rst = true ∧ (machine (s1At 40#7) [resetIn]).sample.elReady = true := by decide
theorem witness_EveryStepKeepsInvariant :
    (machine s1 [ready]).regs.Inv ∧ step (machine s1 [ready]) = .next { machine (s1At 1#7) [] with trace := [0x011FF#17] } := by
  refine ⟨⟨by decide, by decide, fun _ => ⟨22, by decide⟩, by decide, by decide⟩, rfl⟩
theorem witness_EveryStepKeepsOutAtReset :
    (machine Regs.reset [offer 0x8008000000000001#64]).regs.OutAtReset ∧
    step (machine Regs.reset [offer 0x8008000000000001#64])
      = .next (machine { Regs.reset with phase := .run, frame := 0x8000000000001#52 } []) := by
  refine ⟨by intro _; decide, rfl⟩
theorem witness_StepFollowsClockStep_reset : (machine s1 [resetIn]).sample.rst = true := by decide
theorem witness_StepFollowsClockStep_wait :
    (machine s1Idle [quiet]).sample.rst = false ∧ (machine s1Idle [quiet]).regs.phase = .idle ∧
    (machine s1Idle [quiet]).sample.cmdValid = false := by decide
theorem witness_StepFollowsClockStep_command (w : CmdWord) :
    (machine s1Idle [offer w]).sample.rst = false ∧ (machine s1Idle [offer w]).regs.phase = .idle ∧
    (machine s1Idle [offer w]).sample.cmdValid = true ∧ (machine s1Idle [offer w]).sample.cmdWord = w :=
  ⟨rfl, rfl, rfl, rfl⟩
theorem witness_StepFollowsClockStep_ops :
    (0#64 : CmdWord).extractLsb' 62 2 = 0b00#2 ∧ (0x4000000000166609#64 : CmdWord).extractLsb' 62 2 = 0b01#2 ∧
    (0x8000000000000000#64 : CmdWord).extractLsb' 62 2 = 0b10#2 ∧
    (0xC000000000166609#64 : CmdWord).extractLsb' 62 2 = 0b11#2 := by decide
theorem witness_StepFollowsClockStep_climate :
    Mode.cool.code = (0xC000000000166609#64 : CmdWord).extractLsb' 0 2 ∧
    Fan.high.code = (0xC000000000166609#64 : CmdWord).extractLsb' 2 2 ∧
    Swing.off.code = (0xC000000000166609#64 : CmdWord).extractLsb' 4 1 ∧
    0x1666#16 = (0xC000000000166609#64 : CmdWord).extractLsb' 8 16 := by decide
theorem witness_StepFollowsClockStep_run :
    (machine s1 [quiet]).sample.rst = false ∧ (machine s1 [quiet]).regs.phase = .run ∧
    (machine s1 [quiet]).sample.elReady = false ∧
    (machine (s1At 108#7) [ready]).sample.elReady = true ∧ (machine (s1At 108#7) [ready]).regs.seqIdx = 108#7 ∧
    (machine (s1At 107#7) [ready]).regs.seqIdx ≠ 108#7 ∧ (machine (s1At 127#7) [ready]).regs.seqIdx ≠ 108#7 := by decide
theorem witness_StepRunsOfferedCommand :
    (machine s1Idle [offer 0x8008000000000001#64]).sample.rst = false ∧
    (machine s1Idle [offer 0x8008000000000001#64]).sample.cmdValid = true ∧
    (machine s1Idle [offer 0x8008000000000001#64]).regs.phase = .idle ∧
    decodeWord (machine s1Idle [offer 0x8008000000000001#64]).sample.cmdWord = .sequence 0x8000000000001#52 0#10 := by
  decide
theorem witness_UnreadyPortIsIgnored : (machine s1 []).regs.phase = .run ∧ (machine s1Idle []).regs.phase = .idle := by decide
theorem witness_WritersOfEachRegister_start :
    (machine Regs.reset [offer 0xC000000000166609#64]).sample.rst = false ∧
    ∃ t, step (machine Regs.reset [offer 0xC000000000166609#64]) = .next t ∧ t.regs.phase ≠ Regs.reset.phase ∧
      t.regs.frame ≠ Regs.reset.frame ∧ t.regs.outMode ≠ Regs.reset.outMode :=
  ⟨rfl, machine s1 [], rfl, by decide⟩
theorem witness_WritersOfEachRegister_element :
    (machine (s1At 108#7) [ready]).sample.rst = false ∧
    ∃ t, step (machine (s1At 108#7) [ready]) = .next t ∧ t.regs.phase ≠ (s1At 108#7).phase ∧
      t.regs.seqIdx ≠ (s1At 108#7).seqIdx :=
  ⟨rfl, { machine s1Idle [] with trace := [0x1F1FF#17] }, rfl, by decide⟩
theorem witness_QuietEdgesHoldEverything :
    (machine s1 [quiet, quiet, ready]).inputs = [quiet, quiet] ++ [ready] ∧
    ∀ i ∈ [quiet, quiet], i.rst = false ∧ i.cmdValid = false ∧ i.elReady = false := by decide
theorem witness_ResultsDependOnCommandAlone :
    Regs.reset.phase = .idle ∧ s1Idle.phase = .idle ∧
    (machine Regs.reset [offer 0xFF00000000166609#64]).sample = offer 0xFF00000000166609#64 ∧
    (machine s1Idle [offer 0x4000000000166609#64]).sample = offer 0x4000000000166609#64 ∧
    (∀ w, (offer w).rst = false ∧ (offer w).cmdValid = true) ∧
    (0xFF00000000166609#64 : CmdWord).toNat / 2 ^ 62 % 2 = 1 ∧ (0x4000000000166609#64 : CmdWord).toNat / 2 ^ 62 % 2 = 1 ∧
    (0xFF00000000166609#64 : CmdWord).toNat % 2 ^ 24 = (0x4000000000166609#64 : CmdWord).toNat % 2 ^ 24 ∧
    step (machine Regs.reset [offer 0xFF00000000166609#64]) = .next (machine s1 []) ∧
    step (machine s1Idle [offer 0x4000000000166609#64]) = .next (machine s1Idle []) :=
  ⟨rfl, rfl, rfl, rfl, fun _ => ⟨rfl, rfl⟩, by decide, by decide, by decide, rfl, rfl⟩
theorem witness_ResultsDependOnCommandAlone_element :
    s1.phase = { s1 with resValid := false }.phase ∧ s1.frame = { s1 with resValid := false }.frame ∧
    s1.seqIdx = { s1 with resValid := false }.seqIdx := ⟨rfl, rfl, rfl⟩
theorem witness_commands_complete : (machine s1Idle []).regs.phase = .idle := rfl
theorem witness_TransmitIsEncodeThenSequence :
    exec (.encode ⟨.cool, .high, .off, 0x1666#16⟩ RsvdS.zero) (machine Regs.reset []) = .next (machine s1Idle []) := rfl
theorem witness_WriteBackIsAFixedPoint :
    (machine s1Idle []).regs.phase = .idle ∧
    exec (.encode ⟨.heat, .medium, .horizontal, 0x1900#16⟩ RsvdS.zero) (machine s1Idle [])
      = .next (machine ⟨.idle, 0#7, 0x03000002401AB#52, .heat, .low, .horizontal, 0x1900#16, true⟩ []) := ⟨rfl, rfl⟩
theorem witness_FanIsNormalised : (Mode.off = .off ∨ Mode.off = .dry) ∧ (Mode.dry = .off ∨ Mode.dry = .dry) := by decide
theorem witness_SequenceIsHeaderDataFooter :
    elem params 0x8000000000001#52 3#7 = some .oneSpace ∧ elem params 0x8000000000001#52 103#7 = some .zeroSpace ∧
    elem params 0x8000000000001#52 105#7 = some .oneSpace ∧ elem params 0x8000000000001#52 104#7 = some .bitMark ∧
    elem params 0x8000000000001#52 109#7 = none := by decide
theorem witness_ElementAcceptance :
    (machine (s1At 127#7) [ready]).regs.phase = .run ∧ (machine (s1At 127#7) [ready]).sample.rst = false ∧
    (machine (s1At 127#7) [ready]).sample.elReady = true ∧ (machine (s1At 127#7) [ready]).regs.seqIdx ≠ 108#7 := by decide
theorem witness_OutputsOfRegisters :
    s1.phase = .run ∧ elem params s1.frame s1.seqIdx = some .hdrMark ∧ s1Idle.phase = .idle := by decide
theorem witness_TraceGainsDeliveredElements :
    step (machine s1 [ready]) = .next { machine (s1At 1#7) [] with trace := [0x011FF#17] } ∧
    (machine s1 [ready]).sample.rst = false ∧ (machine s1 [ready]).sample.elReady = true ∧ (out s1).elValid = true :=
  ⟨rfl, rfl, rfl, rfl⟩
theorem witness_TraceGainsDeliveredElements_none :
    step (machine s1 [quiet]) = .next (machine s1 []) ∧ (machine s1 [quiet]).sample.elReady = false ∧
    (out s1Idle).elValid = false ∧ step (machine s1Idle [ready]) = .next (machine s1Idle []) := ⟨rfl, rfl, rfl, rfl⟩
theorem witness_PacingNeverChangesElements :
    (machine (s1At 106#7) [ready, quiet, ready]).regs.phase = .run ∧
    (machine (s1At 106#7) [ready, quiet, ready]).inputs = [ready, quiet, ready] ++ [] ∧
    noReset [ready, quiet, ready] = true ∧ (s1At 106#7).seqIdx.toNat + readyEdges [ready, quiet, ready] = 108 := by decide
/-- A stalled edge, then 108 ready ones. -/
def stalledOnce : List Inputs := quiet :: List.replicate 108 ready
theorem witness_WholeSequenceIsDelivered :
    (machine s1 (stalledOnce ++ ready :: [])).regs.phase = .run ∧
    (machine s1 (stalledOnce ++ ready :: [])).regs.seqIdx = 0#7 ∧
    (machine s1 (stalledOnce ++ ready :: [])).inputs = stalledOnce ++ ready :: [] ∧
    noReset stalledOnce = true ∧ readyEdges stalledOnce = 108 ∧ ready.rst = false ∧ ready.elReady = true := by
  refine ⟨rfl, rfl, rfl, ?_, ?_, rfl, rfl⟩
  · simp [noReset, stalledOnce, quiet, ready]
  · simp [readyEdges, stalledOnce, quiet, ready]
theorem witness_HeldCommandIsAcceptedNext :
    (machine (s1At 108#7) [⟨false, true, 0#64, true⟩, offer 0x8008000000000001#64]).regs.phase = .run ∧
    (machine (s1At 108#7) [⟨false, true, 0#64, true⟩, offer 0x8008000000000001#64]).regs.seqIdx = 108#7 ∧
    (machine (s1At 108#7) [⟨false, true, 0#64, true⟩, offer 0x8008000000000001#64]).inputs
      = [⟨false, true, 0#64, true⟩, ⟨false, true, 0x8008000000000001#64, false⟩] := by decide
/-- A TRANSMIT, 109 ready edges, and the next command. -/
def backToBack : List Inputs := offer 0xC000000000166609#64 :: (List.replicate 109 ready ++ offer 0#64 :: [])
theorem witness_NextCommandAfterOneHundredTenEdges :
    (machine Regs.reset backToBack).regs.phase = .idle ∧
    (machine Regs.reset backToBack).inputs
      = ⟨false, true, encodeInstr (.transmit ⟨.cool, .high, .off, 0x1666#16⟩ RsvdS.zero), false⟩
        :: (List.replicate 109 ready ++ offer 0#64 :: []) ∧
    exec (.transmit ⟨.cool, .high, .off, 0x1666#16⟩ RsvdS.zero) (machine Regs.reset backToBack)
      = .next (machine s1 backToBack) ∧
    (machine s1 backToBack).regs.phase = .run ∧ (List.replicate 109 ready).length = 109 ∧
    (∀ j ∈ List.replicate 109 ready, j.rst = false ∧ j.elReady = true) ∧
    (offer 0#64).rst = false ∧ (offer 0#64).cmdValid = true := by
  refine ⟨rfl, ?_, rfl, rfl, List.length_replicate, ?_, rfl, rfl⟩
  · have h : encodeInstr (.transmit ⟨.cool, .high, .off, 0x1666#16⟩ RsvdS.zero) = 0xC000000000166609#64 := by decide
    rw [h]
    rfl
  · intro j hj
    obtain ⟨_, rfl⟩ := List.mem_replicate.mp hj
    decide
theorem witness_AssemblyOfDisassembly : (decodeWord 0xC000000000166609#64).wellFormed = true := by decide
theorem witness_AssemblerWritesReservedZero :
    assembleLine 0#52 ['N', 'O', 'P'] = .ok (some 0#64) := rfl
theorem witness_DecimalTemperatureIsExact :
    q88OfDecimal false 2625 100 = some 0x1A40#16 ∧ q88OfDecimal true 128 1 = some 0x8000#16 ∧
    q88OfDecimal false 128 1 = none ∧ q88OfDecimal false 224 10 = none ∧
    q88OfDecimal false 12799609375 100000000 = some 0x7FFF#16 := by decide
/-- 26.25, and -128 without a point: the text and its reading. -/
theorem witness_DecimalTemperatureIsExact_text :
    decimalText false [2, 6] [2, 5] = "26.25".toList ∧ readTemp (decimalText false [2, 6] [2, 5]) = some 0x1A40#16 ∧
    decimalText true [1, 2, 8] [] = "-128".toList ∧ readTemp (decimalText true [1, 2, 8] []) = some 0x8000#16 ∧
    readTemp (decimalText false [2, 2] [4]) = none := by decide
theorem witness_PseudoInstructionsExpand_operands :
    powerOffText "temp=22.4".toList "swing=off".toList = "POWEROFF temp=22.4, swing=off".toList ∧
    powerOffExpansion "temp=22.4".toList "swing=off".toList
      = "TRANSMIT mode=OFF, fan=LOW, swing=off, temp=22.4".toList ∧
    ("temp=22.4".toList ++ "swing=off".toList).all (fun c => c != ',' && c != ';') = true := by decide
theorem witness_PseudoInstructionsExpand_temperature :
    readTemp "0x1600".toList = some 0x1600#16 ∧ readTemp "22.0".toList = some 0x1600#16 := by decide

end Sys2Proof.Tests
end

section
/-! SUPPORT. The statements about the registers (10_state.md R22 to R39): what one edge does to them, said once
(`RegsEdge`), and the invariants, writers and outputs that follow from it. -/
namespace Sys2Proof.Machine

/-! ### The decoder by OP (30_encoding.md R61) -/

section Decoder
variable {w : CmdWord}

theorem decodeWord_of_op_zero (h : opField w = 0#2) : decodeWord w = .nop (w.extractLsb' 0 62) := by
  simp [decodeWord, h]

theorem decodeWord_of_op_one (h : opField w = 1#2) : decodeWord w = .encode (climateField w) (rsvdSField w) := by
  simp [decodeWord, h]

theorem decodeWord_of_op_two (h : opField w = 2#2) :
    decodeWord w = .sequence (frameField w) (w.extractLsb' 52 10) := by
  simp [decodeWord, h]

theorem decodeWord_of_op_three (h : opField w = 3#2) : decodeWord w = .transmit (climateField w) (rsvdSField w) := by
  simp [decodeWord, h]

/-- The words with OP's low bit set are the format S commands, ENCODE and TRANSMIT (R54). -/
theorem decodeWord_of_op_odd (h : w.toNat / 2 ^ 62 % 2 = 1) :
    decodeWord w = .encode (climateField w) (rsvdSField w) ∨
    decodeWord w = .transmit (climateField w) (rsvdSField w) := by
  rw [← opField_toNat] at h
  rcases op_cases w with hop | hop | hop | hop
  · simp [hop] at h
  · exact .inl (decodeWord_of_op_one hop)
  · simp [hop] at h
  · exact .inr (decodeWord_of_op_three hop)

/-- Format S keeps its operands in bits 23 to 0 (R55). -/
theorem climateField_eq_of_mod_eq {v w : CmdWord} (h : v.toNat % 2 ^ 24 = w.toNat % 2 ^ 24) :
    climateField v = climateField w := by
  have hlow : v.setWidth 24 = w.setWidth 24 := by
    apply BitVec.eq_of_toNat_eq
    simpa only [BitVec.toNat_setWidth] using h
  have hslice (lo len : Nat) (hle : lo + len ≤ 24) : v.extractLsb' lo len = w.extractLsb' lo len := by
    rw [← BitVec.extractLsb'_setWidth_of_le hle, hlow, BitVec.extractLsb'_setWidth_of_le hle]
  simp only [climateField, hslice 0 2, hslice 2 2, hslice 4 1, hslice 8 16, Nat.reduceAdd, Nat.reduceLeDiff]

end Decoder

/-! ### What one edge does to the registers -/

/-- How an edge that samples `inp` changes the registers `r` (R119): each way, with everything that makes the edge
take it. -/
inductive RegsEdge (inp : Inputs) (r : Regs) : Regs → Prop where
  /-- R140. -/
  | reset (hrst : inp.rst = true) : RegsEdge inp r Regs.reset
  /-- A NOP (R117), an edge without a command (R119), a stalled element (R109). -/
  | hold (hrst : inp.rst = false)
      (hcmd : r.phase = .idle → inp.cmdValid = true → inp.cmdWord.toNat / 2 ^ 62 = 0)
      (hel : r.phase = .run → inp.elReady = false) : RegsEdge inp r r
  /-- R95. -/
  | encode (hrst : inp.rst = false) (hidle : r.phase = .idle) (hvalid : inp.cmdValid = true)
      (hop : inp.cmdWord.toNat / 2 ^ 62 = 1) :
      RegsEdge inp r (r.writeResults (climateField inp.cmdWord) (enc params (climateField inp.cmdWord)))
  /-- R108. -/
  | sequence (hrst : inp.rst = false) (hidle : r.phase = .idle) (hvalid : inp.cmdValid = true)
      (hop : inp.cmdWord.toNat / 2 ^ 62 = 2) :
      RegsEdge inp r (r.loadFrame (frameField inp.cmdWord)).startRun
  /-- R115. -/
  | transmit (hrst : inp.rst = false) (hidle : r.phase = .idle) (hvalid : inp.cmdValid = true)
      (hop : inp.cmdWord.toNat / 2 ^ 62 = 3) :
      RegsEdge inp r (r.writeResults (climateField inp.cmdWord) (enc params (climateField inp.cmdWord))).startRun
  /-- R109. -/
  | element (hrst : inp.rst = false) (hrun : r.phase = .run) (hready : inp.elReady = true) : RegsEdge inp r r.advance

/-- The register writes of an accepted command, by OP (R118). -/
theorem regsEdge_of_exec {inp : Inputs} {s t : State} (hrst : inp.rst = false) (hidle : s.regs.phase = .idle)
    (hvalid : inp.cmdValid = true) (h : exec (decodeWord inp.cmdWord) s = .next t) :
    RegsEdge inp s.regs t.regs := by
  have hnum := opField_toNat inp.cmdWord
  rw [exec_idle _ hidle] at h
  cases h
  rcases op_cases inp.cmdWord with hop | hop | hop | hop <;> rw [hop] at hnum
  · rw [decodeWord_of_op_zero hop]
    exact .hold hrst (fun _ _ => hnum.symm) (by simp [hidle])
  · rw [decodeWord_of_op_one hop]
    exact .encode hrst hidle hvalid hnum.symm
  · rw [decodeWord_of_op_two hop]
    exact .sequence hrst hidle hvalid hnum.symm
  · rw [decodeWord_of_op_three hop]
    exact .transmit hrst hidle hvalid hnum.symm

/-- A step changes the registers in one of the ways of `RegsEdge`. -/
theorem regsEdge_of_step {s t : State} (h : step s = .next t) : RegsEdge s.sample s.regs t.regs := by
  obtain ⟨hrst, hs⟩ | ⟨hrst, hp, hv, hs⟩ | ⟨hrst, hp, hv, hs⟩ | ⟨hrst, hp, he, hs⟩ | ⟨hrst, hp, he, hs⟩ :=
    step_cases s <;> rw [hs] at h
  case inr.inl => simpa using regsEdge_of_exec hrst (by simpa using hp) hv h
  all_goals cases h
  · exact .reset hrst
  · simpa using RegsEdge.hold hrst (by simp [hv]) (by simp [hp])
  · simpa using RegsEdge.element hrst hp he
  · simpa using RegsEdge.hold hrst (by simp [hp]) (by simp [he])

/-! ### The corrected state an encoder hands back (40_encoder.md R81, R88) -/

/-- R87, R88: `out_temp` is a whole number of °C from the clamp's range, in Q8.8. -/
theorem tempOut_eq_ofNat (x : Climate) :
    ∃ k : Nat, (if x.mode = .cool then 17 else 15) ≤ k ∧ k ≤ 30 ∧
      (enc params x).tempOut = BitVec.ofNat 16 (256 * k) := by
  obtain ⟨-, -, hlo, hhi⟩ := ci_bounds .up x.mode x.temp
  change _ ≤ ci params x.mode x.temp at hlo
  change ci params x.mode x.temp ≤ 30 at hhi
  obtain ⟨k, hk⟩ : ∃ k : Nat, ci params x.mode x.temp = k := Int.eq_ofNat_of_zero_le (by split at hlo <;> omega)
  rw [hk] at hlo hhi
  refine ⟨k, by exact_mod_cast hlo, by exact_mod_cast hhi, ?_⟩
  show q88OfInt (ci params x.mode x.temp) = _
  rw [hk, q88OfInt, q88One_eq, mul_comm]
  exact BitVec.ofInt_natCast 16 (256 * k)

/-- R81: no frame of mode HEAT reports MEDIUM. -/
theorem fanOut_heat_ne_medium (f : Fan) : fanOut .heat f ≠ .medium := by cases f <;> decide

/-! ### The invariants of R31 -/

section Invariant
variable {inp : Inputs} {r r' : Regs}

theorem inv_reset : Regs.reset.Inv where
  idleIdx _   := rfl
  idxBound    := by decide
  tempLegal h := by cases h
  coolTemp h  := by cases h
  heatFan h   := by cases h

theorem inv_writeResults (x : Climate) (h : r.Inv) : (r.writeResults x (enc params x)).Inv where
  idleIdx     := h.idleIdx
  idxBound    := h.idxBound
  tempLegal _ := by
    obtain ⟨k, hlo, hhi, hk⟩ := tempOut_eq_ofNat x
    exact ⟨k, by split at hlo <;> omega, hhi, hk⟩
  coolTemp _ hcool := by
    obtain ⟨k, hlo, hhi, hk⟩ := tempOut_eq_ofNat x
    rw [if_pos (show x.mode = .cool from hcool)] at hlo
    rw [writeResults_outTemp, hk, BitVec.toNat_ofNat]
    omega
  heatFan _ hheat := by
    rw [writeResults_outMode] at hheat
    rw [writeResults_outFan, enc, hheat]
    exact fanOut_heat_ne_medium x.fan

theorem inv_loadFrame (f : Frame) (h : r.Inv) : (r.loadFrame f).Inv where
  __ := h

theorem inv_startRun (h : r.Inv) : r.startRun.Inv where
  __ := h
  idleIdx _ := rfl
  idxBound  := by simp

theorem inv_endRun (h : r.Inv) : r.endRun.Inv where
  __ := h
  idleIdx _ := rfl
  idxBound  := by simp

/-- Only in RUN: an element taken in IDLE would move SEQ_IDX off 0. -/
theorem inv_advance (hrun : r.phase = .run) (h : r.Inv) : r.advance.Inv := by
  by_cases hlast : r.seqIdx = 108#7
  · rw [advance_last r hlast]
    exact inv_endRun h
  · rw [advance_next r hlast]
    have hle : r.seqIdx.toNat ≤ 108 := h.idxBound
    have hnext : (r.seqIdx + 1#7).toNat ≤ 108 := by bv_omega
    exact { h with idleIdx := by simp [hrun], idxBound := hnext }

theorem inv_of_regsEdge (h : r.Inv) (hedge : RegsEdge inp r r') : r'.Inv := by
  cases hedge with
  | reset              => exact inv_reset
  | hold               => exact h
  | encode             => exact inv_writeResults _ h
  | sequence           => exact inv_startRun (inv_loadFrame _ h)
  | transmit           => exact inv_startRun (inv_writeResults _ h)
  | element _ hrun _   => exact inv_advance hrun h

end Invariant

/-- Settles O11: `Regs.Inv` is inductive, one lemma per register operation of `RegsEdge`. -/
theorem everyStepKeepsInvariant : Obligations.EveryStepKeepsInvariant :=
  fun _ _ hinv hstep => inv_of_regsEdge hinv (regsEdge_of_step hstep)

/-! ### The 82-bit tuple of R39 -/

section Tuple

theorem append_inj {m n : Nat} {a a' : BitVec m} {b b' : BitVec n} (h : a ++ b = a' ++ b') : a = a' ∧ b = b' := by
  constructor
  · simpa only [BitVec.extractLsb'_append_eq_left] using congrArg (BitVec.extractLsb' n m) h
  · simpa only [BitVec.extractLsb'_append_eq_right] using congrArg (BitVec.extractLsb' 0 n) h

theorem phaseCode_injective : Function.Injective Phase.code
  | .idle, .idle, _ => rfl
  | .idle, .run, h  => absurd h (by decide)
  | .run, .idle, h  => absurd h (by decide)
  | .run, .run, _   => rfl

theorem toTuple_injective : Function.Injective Regs.toTuple := by
  intro r r' h
  obtain ⟨h, hres⟩ := append_inj h
  obtain ⟨h, htemp⟩ := append_inj h
  obtain ⟨h, hswing⟩ := append_inj h
  obtain ⟨h, hfan⟩ := append_inj h
  obtain ⟨h, hmode⟩ := append_inj h
  obtain ⟨h, hframe⟩ := append_inj h
  obtain ⟨hphase, hidx⟩ := append_inj h
  rw [Regs.mk.injEq]
  exact ⟨phaseCode_injective hphase, hidx, hframe, Function.LeftInverse.injective modeOf_code hmode,
    Function.LeftInverse.injective fanOf_code hfan, Function.LeftInverse.injective swingOf_code hswing, htemp,
    BitVec.ofBool_eq_iff_eq.mp hres⟩

section Slices
variable (v : BitVec 82)

theorem ofTuple_phase_code : (Regs.ofTuple v).phase.code = v.extractLsb' 81 1 := by
  have h : ∀ b : BitVec 1, (if b = 0#1 then Phase.idle else Phase.run).code = b := by decide
  exact h _

theorem ofTuple_outMode_code : (Regs.ofTuple v).outMode.code = v.extractLsb' 20 2 := code_modeOf _

theorem ofTuple_outFan_code : (Regs.ofTuple v).outFan.code = v.extractLsb' 18 2 := code_fanOf _

theorem ofTuple_outSwing_code : (Regs.ofTuple v).outSwing.code = v.extractLsb' 17 1 := code_swingOf _

theorem ofBool_ofTuple_resValid : BitVec.ofBool (Regs.ofTuple v).resValid = v.extractLsb' 0 1 := by
  have h : ∀ b : BitVec 1, BitVec.ofBool (b == 1#1) = b := by decide
  rw [← h (v.extractLsb' 0 1), ← BitVec.getLsbD_eq_extractLsb']
  rfl

/-- The registers of a tuple are its slices, and the slices side by side are the tuple again. -/
theorem toTuple_ofTuple : (Regs.ofTuple v).toTuple = v := by
  rw [Regs.toTuple, ofTuple_phase_code, ofTuple_outMode_code, ofTuple_outFan_code, ofTuple_outSwing_code,
    ofBool_ofTuple_resValid]
  simp only [Regs.ofTuple]
  iterate 7 rw [BitVec.extractLsb'_append_extractLsb'_eq_extractLsb' (by decide)]
  exact BitVec.extractLsb'_eq_self

end Slices

theorem ofTuple_toTuple (r : Regs) : Regs.ofTuple r.toTuple = r := toTuple_injective (toTuple_ofTuple r.toTuple)

end Tuple

/-- Settles O6: `toTuple` is injective and `ofTuple` undoes it from the one side, so from the other too; a slice of a
tuple is then the register `ofTuple` reads there. -/
theorem registersAreTheTuple : Obligations.RegistersAreTheTuple := by
  refine ⟨ofTuple_toTuple, toTuple_ofTuple, fun r => ?_⟩
  have hr := ofTuple_toTuple r
  refine ⟨?_, congrArg Regs.seqIdx hr, congrArg Regs.frame hr, ?_, ?_, ?_, congrArg Regs.outTemp hr, ?_⟩
  · rw [← ofTuple_phase_code, hr]
    cases r.phase <;> rfl
  · rw [← ofTuple_outMode_code, hr]
  · rw [← ofTuple_outFan_code, hr]
  · rw [← ofTuple_outSwing_code, hr]
  · rw [← ofBool_ofTuple_resValid, hr]
    cases r.resValid <;> rfl

/-! ### OUT_* while RES_VALID = 0 (R29) -/

section OutAtReset
variable {inp : Inputs} {r r' : Regs}

theorem outAtReset_reset : Regs.reset.OutAtReset := fun _ => ⟨rfl, rfl, rfl, rfl⟩

theorem outAtReset_writeResults (x : Climate) (e : EncResult) : (r.writeResults x e).OutAtReset :=
  fun hres => by cases hres

theorem outAtReset_advance (h : r.OutAtReset) : r.advance.OutAtReset := by
  simpa only [Regs.OutAtReset, advance_resValid, advance_outMode, advance_outFan, advance_outSwing,
    advance_outTemp] using h

theorem outAtReset_of_regsEdge (h : r.OutAtReset) (hedge : RegsEdge inp r r') : r'.OutAtReset := by
  cases hedge with
  | reset    => exact outAtReset_reset
  | hold     => exact h
  | encode   => exact outAtReset_writeResults _ _
  | sequence => exact h
  | transmit => exact outAtReset_writeResults (r := r) _ _
  | element  => exact outAtReset_advance h

end OutAtReset

/-- Settles O12: the two commands that write OUT_* set RES_VALID, and no other edge but a reset touches either. -/
theorem everyStepKeepsOutAtReset : Obligations.EveryStepKeepsOutAtReset :=
  fun _ _ h hstep => outAtReset_of_regsEdge h (regsEdge_of_step hstep)

/-! ### The writers of each register (R22 to R30) -/

section Writers
variable {inp : Inputs} {r r' : Regs}

theorem phase_writers (hedge : RegsEdge inp r r') (hrst : inp.rst = false) (hne : r'.phase ≠ r.phase) :
    (r.phase = .idle ∧ inp.cmdValid = true ∧ 2 ≤ inp.cmdWord.toNat / 2 ^ 62) ∨
    (r.phase = .run ∧ inp.elReady = true ∧ r.seqIdx = 108#7) := by
  cases hedge with
  | reset h => simp [hrst] at h
  | hold => exact absurd rfl hne
  | encode => exact absurd rfl hne
  | sequence _ hidle hvalid hop => exact .inl ⟨hidle, hvalid, by omega⟩
  | transmit _ hidle hvalid hop => exact .inl ⟨hidle, hvalid, by omega⟩
  | element _ hrun hready =>
    refine .inr ⟨hrun, hready, by_contra fun hidx => hne ?_⟩
    rw [advance_next r hidx]

theorem seqIdx_writers (hedge : RegsEdge inp r r') (hrst : inp.rst = false) (hne : r'.seqIdx ≠ r.seqIdx) :
    (r.phase = .idle ∧ inp.cmdValid = true ∧ 2 ≤ inp.cmdWord.toNat / 2 ^ 62) ∨
    (r.phase = .run ∧ inp.elReady = true) := by
  cases hedge with
  | reset h => simp [hrst] at h
  | hold => exact absurd rfl hne
  | encode => exact absurd rfl hne
  | sequence _ hidle hvalid hop => exact .inl ⟨hidle, hvalid, by omega⟩
  | transmit _ hidle hvalid hop => exact .inl ⟨hidle, hvalid, by omega⟩
  | element _ hrun hready => exact .inr ⟨hrun, hready⟩

theorem frame_writers (hedge : RegsEdge inp r r') (hrst : inp.rst = false) (hne : r'.frame ≠ r.frame) :
    r.phase = .idle ∧ inp.cmdValid = true ∧ inp.cmdWord.toNat / 2 ^ 62 ≠ 0 := by
  cases hedge with
  | reset h => simp [hrst] at h
  | hold => exact absurd rfl hne
  | encode _ hidle hvalid hop => exact ⟨hidle, hvalid, by omega⟩
  | sequence _ hidle hvalid hop => exact ⟨hidle, hvalid, by omega⟩
  | transmit _ hidle hvalid hop => exact ⟨hidle, hvalid, by omega⟩
  | element => exact absurd (advance_frame r) hne

theorem result_writers (hedge : RegsEdge inp r r') (hrst : inp.rst = false)
    (hne : r'.outMode ≠ r.outMode ∨ r'.outFan ≠ r.outFan ∨ r'.outSwing ≠ r.outSwing ∨ r'.outTemp ≠ r.outTemp ∨
      r'.resValid ≠ r.resValid) :
    r.phase = .idle ∧ inp.cmdValid = true ∧ inp.cmdWord.toNat / 2 ^ 62 % 2 = 1 ∧ r'.resValid = true := by
  cases hedge with
  | reset h => simp [hrst] at h
  | hold => simp at hne
  | encode _ hidle hvalid hop => exact ⟨hidle, hvalid, by omega, rfl⟩
  | sequence => simp at hne
  | transmit _ hidle hvalid hop => exact ⟨hidle, hvalid, by omega, rfl⟩
  | element => simp at hne

end Writers

/-- Settles O18: each register's writers, read off the cases of `RegsEdge`. -/
theorem writersOfEachRegister : Obligations.WritersOfEachRegister := by
  intro s t hstep hrst
  have hedge := regsEdge_of_step hstep
  exact ⟨phase_writers hedge hrst, seqIdx_writers hedge hrst, frame_writers hedge hrst, result_writers hedge hrst⟩

/-! ### Results and elements (R36, R38) -/

/-- What an accepted ENCODE or TRANSMIT leaves in FRAME and OUT_* (R95, R115): nothing of the state it met. -/
theorem results_of_step {s t : State} (hidle : s.regs.phase = .idle) (hrst : s.sample.rst = false)
    (hvalid : s.sample.cmdValid = true) (hop : s.sample.cmdWord.toNat / 2 ^ 62 % 2 = 1) (h : step s = .next t) :
    t.regs.frame = (enc params (climateField s.sample.cmdWord)).frame ∧
    t.regs.outMode = (climateField s.sample.cmdWord).mode ∧
    t.regs.outFan = (enc params (climateField s.sample.cmdWord)).fanOut ∧
    t.regs.outSwing = (climateField s.sample.cmdWord).swing ∧
    t.regs.outTemp = (enc params (climateField s.sample.cmdWord)).tempOut := by
  rw [step_command hrst hidle hvalid, exec_idle _ (by simpa using hidle)] at h
  cases h
  obtain hdec | hdec := decodeWord_of_op_odd hop <;> rw [hdec] <;> exact ⟨rfl, rfl, rfl, rfl, rfl⟩

theorem elWord_congr {r₁ r₂ : Regs} (hphase : r₁.phase = r₂.phase) (hframe : r₁.frame = r₂.frame)
    (hidx : r₁.seqIdx = r₂.seqIdx) : (out r₁).elWord = (out r₂).elWord := by
  simp only [out, hphase, hframe, hidx]

/-- Settles O20: `results_of_step` names only the operands, and the operands are bits 23 to 0. -/
theorem resultsDependOnCommandAlone : Obligations.ResultsDependOnCommandAlone := by
  refine ⟨?_, fun _ _ => elWord_congr⟩
  intro s₁ s₂ t₁ t₂ hidle₁ hrst₁ hvalid₁ hop₁ hidle₂ hrst₂ hvalid₂ hop₂ hlow hstep₁ hstep₂
  have hclimate := climateField_eq_of_mod_eq hlow
  obtain ⟨hframe₁, hmode₁, hfan₁, hswing₁, htemp₁⟩ := results_of_step hidle₁ hrst₁ hvalid₁ hop₁ hstep₁
  obtain ⟨hframe₂, hmode₂, hfan₂, hswing₂, htemp₂⟩ := results_of_step hidle₂ hrst₂ hvalid₂ hop₂ hstep₂
  rw [hframe₁, hmode₁, hfan₁, hswing₁, htemp₁, hclimate]
  exact ⟨hframe₂.symm, hmode₂.symm, hfan₂.symm, hswing₂.symm, htemp₂.symm⟩

/-! ### Reset (R30, R140) -/

/-- Settles O7. -/
theorem registersAfterReset : Obligations.RegistersAfterReset := rfl

/-- Settles O10: the base case of O11 and O12. -/
theorem invariantAfterReset : Obligations.InvariantAfterReset := ⟨inv_reset, outAtReset_reset⟩

/-! ### The port that is not ready (R119, R145) -/

section UnreadyPort
variable {s : State}

/-- In RUN an edge reads only `rst` and `el_ready` of its sample. -/
theorem step_run_of_inputs (inp : Inputs) (rest : List Inputs) (hrun : s.regs.phase = .run) :
    step { s with inputs := inp :: rest } =
      if inp.rst then .next { s with inputs := rest }.resetEdge
      else if inp.elReady then .next { s with inputs := rest }.deliver
      else .next { s with inputs := rest } := by
  change edge inp { s with inputs := rest } = _
  simp only [edge, hrun]

/-- In IDLE an edge reads only `rst` and the command port of its sample. -/
theorem step_idle_of_inputs (inp : Inputs) (rest : List Inputs) (hidle : s.regs.phase = .idle) :
    step { s with inputs := inp :: rest } =
      if inp.rst then .next { s with inputs := rest }.resetEdge
      else if inp.cmdValid then exec (decodeWord inp.cmdWord) { s with inputs := rest }
      else .next { s with inputs := rest } := by
  change edge inp { s with inputs := rest } = _
  simp only [edge, hidle]

theorem exec_run (i : Instr) (hrun : s.regs.phase = .run) : exec i s = .next s := by
  cases i <;> exact congrArg _ (accept_run s _ hrun)

end UnreadyPort

/-- Settles O17: what `step_run_of_inputs` and `step_idle_of_inputs` answer does not name the port that is not ready. -/
theorem unreadyPortIsIgnored : Obligations.UnreadyPortIsIgnored := by
  refine ⟨?_, ?_, fun i _ hrun => exec_run i hrun⟩
  · intro s rest rst ready v w a b hrun
    rw [step_run_of_inputs _ _ hrun, step_run_of_inputs _ _ hrun]
  · intro s rest rst valid a b w hidle
    rw [step_idle_of_inputs _ _ hidle, step_idle_of_inputs _ _ hidle]

/-! ### The outputs (R33) -/

theorem elemWordAt_of_elem {c : Config} {f : Frame} {i : SeqIdx} {k : ElemKind} (h : elem c f i = some k) :
    elemWordAt c f i = elemWord c k := by
  simp only [elemWordAt, h]

/-- Settles O44. -/
theorem outputsOfRegisters : Obligations.OutputsOfRegisters := by
  intro r
  refine ⟨beq_iff_eq, beq_iff_eq, out_elWord_idle r, ?_, rfl, beq_iff_eq, rfl, rfl, rfl, rfl, rfl, rfl, rfl⟩
  intro k hrun helem
  rw [out_elWord_run r hrun, elemWordAt_of_elem helem]

end Sys2Proof.Machine
end

section
/-! SUPPORT. The statements about the host's and the transmitter's handshakes (20_memory.md R47, R49, R51): the command
an edge accepts, edges at which nothing is offered or taken, and a sequence delivered at any pace. -/
namespace Sys2Proof.Machine

/-! ### The accepted command (R51, R118) -/

/-- A command is read back from its word, reserved bits included (R54, R55, R58, R59). -/
theorem decodeWord_encodeInstr (i : Instr) : decodeWord (encodeInstr i) = i := by
  cases i with
  | nop r =>
    rw [decodeWord_of_op_zero (opField_encodeInstr _), encodeInstr, BitVec.extractLsb'_append_eq_right]
  | encode x r =>
    obtain ⟨hclimate, hrsvd⟩ := fields_of_payloadS 0b01#2 x r
    rw [decodeWord_of_op_one (opField_encodeInstr _), encodeInstr, hclimate, hrsvd]
  | sequence f r =>
    have hpayload (lo len : Nat) (hle : lo + len ≤ 62) :
        (0b10#2 ++ (r ++ f)).extractLsb' lo len = (r ++ f).extractLsb' lo len :=
      BitVec.extractLsb'_append_eq_of_add_le hle
    have hframe : frameField (0b10#2 ++ (r ++ f)) = f :=
      (hpayload 0 52 (by decide)).trans BitVec.extractLsb'_append_eq_right
    have hrsvd : (0b10#2 ++ (r ++ f)).extractLsb' 52 10 = r :=
      (hpayload 52 10 (by decide)).trans BitVec.extractLsb'_append_eq_left
    rw [decodeWord_of_op_two (opField_encodeInstr _), encodeInstr, hframe, hrsvd]
  | transmit x r =>
    obtain ⟨hclimate, hrsvd⟩ := fields_of_payloadS 0b11#2 x r
    rw [decodeWord_of_op_three (opField_encodeInstr _), encodeInstr, hclimate, hrsvd]

/-- A word of all 64 bits is placed as it is. -/
theorem withFetchWord_toNat (s : State) (w : CmdWord) : s.withFetchWord 64 w.toNat = s.offer w := by
  rw [State.withFetchWord, Nat.mod_eq_of_lt w.isLt, BitVec.ofNat_toNat, BitVec.setWidth_eq]

theorem offer_phase (s : State) (w : CmdWord) : (s.offer w).regs.phase = .idle := by
  cases h : s.regs.phase <;> simp [State.offer, h]

theorem offer_consume (s : State) (w : CmdWord) :
    (s.offer w).consume = { s with regs := if s.regs.phase = .run then s.regs.endRun else s.regs } := rfl

/-- Settles O14. -/
theorem stepRunsOfferedCommand : Obligations.StepRunsOfferedCommand := by
  rintro s i hrst hvalid hidle rfl
  exact ⟨step_command hrst hidle hvalid, consume_regs s, consume_trace s⟩

/-- Settles O15: the placed word is offered in IDLE, so the next edge accepts it (O14). -/
theorem placedCommandIsRun : Obligations.PlacedCommandIsRun := by
  intro s i
  obtain ⟨hstep, -, -⟩ := stepRunsOfferedCommand (s.offer (encodeInstr i)) i rfl rfl (offer_phase s _)
    (decodeWord_encodeInstr i)
  rw [withFetchWord_toNat, hstep, offer_consume]
  rfl

/-! ### Quiet edges (R47, R113, R136) -/

/-- An edge with nothing offered and nothing taken only uses its sample up. -/
theorem step_quiet {s : State} (hrst : s.sample.rst = false) (hvalid : s.sample.cmdValid = false)
    (hready : s.sample.elReady = false) : step s = .next s.consume := by
  cases hphase : s.regs.phase with
  | idle => exact step_idle hrst hphase hvalid
  | run => exact step_stall hrst hphase hready

/-- Settles O19, by induction on the listed samples. -/
theorem quietEdgesHoldEverything : Obligations.QuietEdgesHoldEverything := by
  intro s ins rest hinputs hquiet
  induction ins generalizing s with
  | nil => subst hinputs; rfl
  | cons inp ins ih =>
    obtain ⟨⟨hrst, hvalid, hready⟩, hquiet⟩ := List.forall_mem_cons.mp hquiet
    have hstep := step_quiet (s := s) (by rwa [sample_of_inputs hinputs]) (by rwa [sample_of_inputs hinputs])
      (by rwa [sample_of_inputs hinputs])
    rw [List.length_cons, run_succ _ hstep, consume_of_inputs hinputs]
    exact ih _ rfl hquiet

/-! ### A sequence at any pace (R49, R109, R113, R114) -/

section Pacing

/-- The words of `n` elements of a frame's sequence, the first at index `i`. -/
def elementWords (f : Frame) (i n : Nat) : List ElWord :=
  (((pulseSequence params f).drop i).take n).map (elemWord params)

theorem elementWords_all (f : Frame) : elementWords f 0 109 = (pulseSequence params f).map (elemWord params) := by
  rw [elementWords, List.drop_zero, List.take_of_length_le (pulseSequence_length f).le]

/-- The word offered at SEQ_IDX `i + n` (R107) is the one that follows the `n` words from index `i`. -/
theorem elementWords_succ (f : Frame) {i n : Nat} (hle : i + n ≤ 108) :
    elementWords f i (n + 1) = elementWords f i n ++ [elemWordAt params f (BitVec.ofNat 7 (i + n))] := by
  obtain ⟨k, hk⟩ : ∃ k, (pulseSequence params f)[i + n]? = some k :=
    ⟨_, List.getElem?_eq_getElem (by rw [pulseSequence_length]; omega)⟩
  have helem : elem params f (BitVec.ofNat 7 (i + n)) = some k := by
    rw [elem, BitVec.toNat_ofNat, Nat.mod_eq_of_lt (by omega), ← pulseSequence_getElem? f _ hle, hk]
  rw [elemWordAt_of_elem helem, elementWords, List.take_add_one, List.getElem?_drop, hk, List.map_append]
  rfl

/-- `s` once the next `n` elements have been delivered, none of them the last of the sequence, with `rest` still to be
sampled. -/
def State.afterElements (n : Nat) (rest : List Inputs) (s : State) : State :=
  { s with
    regs := { s.regs with seqIdx := BitVec.ofNat 7 (s.regs.seqIdx.toNat + n) }
    inputs := rest
    trace := s.trace ++ elementWords s.regs.frame s.regs.seqIdx.toNat n }

variable {s : State} {n : Nat} {inp : Inputs} {ins rest : List Inputs}

theorem noReset_concat : noReset (ins ++ [inp]) = true ↔ noReset ins = true ∧ inp.rst = false := by
  simp [noReset]

theorem readyEdges_concat : readyEdges (ins ++ [inp]) = readyEdges ins + if inp.elReady then 1 else 0 := by
  rw [readyEdges, List.countP_append, List.countP_singleton, readyEdges]

theorem afterElements_zero (s : State) : s.afterElements 0 s.inputs = s := by
  simp [State.afterElements, elementWords]

variable (hrun : s.regs.phase = .run)
include hrun

/-- The acceptance of an element adds the next word of the sequence to the trace (R109, R120). -/
theorem deliver_afterElements (hle : s.regs.seqIdx.toNat + n ≤ 108) :
    (s.afterElements n rest).deliver =
      { s with
        regs := (s.afterElements n rest).regs.advance
        inputs := rest
        trace := s.trace ++ elementWords s.regs.frame s.regs.seqIdx.toNat (n + 1) } := by
  have hword : (out (s.afterElements n rest).regs).elWord =
      elemWordAt params s.regs.frame (BitVec.ofNat 7 (s.regs.seqIdx.toNat + n)) := out_elWord_run _ hrun
  rw [elementWords_succ _ hle, ← hword, ← List.append_assoc]
  rfl

/-- An element before the last is accepted. -/
theorem deliver_afterElements_of_lt (hlt : s.regs.seqIdx.toNat + n < 108) :
    (s.afterElements n rest).deliver = s.afterElements (n + 1) rest := by
  have hnext : (s.afterElements n rest).regs.seqIdx ≠ 108#7 := by
    refine BitVec.toNat_ne_iff_ne.mp ?_
    simp only [State.afterElements, BitVec.toNat_ofNat]
    omega
  rw [deliver_afterElements hrun hlt.le, advance_next _ hnext]
  simp [State.afterElements, BitVec.ofNat_add, BitVec.add_assoc]

/-- In RUN an edge without reset delivers an element if the transmitter is ready, and else only uses its sample up. -/
theorem step_afterElements (hrst : inp.rst = false) :
    step (s.afterElements n (inp :: rest)) =
      .next (if inp.elReady then (s.afterElements n rest).deliver else s.afterElements n rest) := by
  have hstep : step (s.afterElements n (inp :: rest)) = _ :=
    step_run_of_inputs (s := s.afterElements n rest) inp rest hrun
  rw [hstep, hrst]
  cases inp.elReady <;> rfl

/-- The elements delivered are counted by the ready edges alone. -/
theorem run_afterElements (hinputs : s.inputs = ins ++ rest) (hrst : noReset ins = true)
    (hle : s.regs.seqIdx.toNat + readyEdges ins ≤ 108) :
    Host.Core.run Sys2Proof.core ins.length s = .next (s.afterElements (readyEdges ins) rest) := by
  induction ins using List.reverseRecOn generalizing rest with
  | nil =>
    obtain rfl : s.inputs = rest := hinputs
    exact congrArg _ (afterElements_zero s).symm
  | append_singleton ins inp ih =>
    obtain ⟨hrstIns, hrstInp⟩ := noReset_concat.mp hrst
    rw [readyEdges_concat] at hle ⊢
    have hbefore := ih (rest := inp :: rest) (by simpa using hinputs) hrstIns (by omega)
    rw [List.length_append, List.length_singleton, run_add _ _ _ _ hbefore,
      run_succ 0 (step_afterElements hrun hrstInp), run_zero]
    cases hready : inp.elReady with
    | false => rfl
    | true =>
      rw [hready, if_pos rfl] at hle
      exact congrArg _ (deliver_afterElements_of_lt hrun hle)

end Pacing

/-- Settles O46: `State.afterElements` is the next state it writes out. -/
theorem pacingNeverChangesElements : Obligations.PacingNeverChangesElements :=
  fun _ _ _ hrun hinputs hrst hle => run_afterElements hrun hinputs hrst hle

/-- Settles O47: after 108 elements (O46) the last one is accepted, which ends the sequence. -/
theorem wholeSequenceIsDelivered : Obligations.WholeSequenceIsDelivered := by
  intro s ins rest final hrun hidx hinputs hrst hready hfinalRst hfinalReady
  have hpaced := run_afterElements hrun hinputs hrst (by simp [hidx, hready])
  have hlast : (s.afterElements 108 rest).regs.advance = (s.afterElements 108 rest).regs.endRun :=
    advance_last _ (by simp [State.afterElements, hidx])
  rw [run_add _ _ _ _ hpaced, hready, run_succ 0 (step_afterElements hrun hfinalRst), run_zero, if_pos hfinalReady,
    deliver_afterElements hrun (by simp [hidx]), hlast, ← elementWords_all, hidx]
  rfl

end Sys2Proof.Machine
end

section
/-! SUPPORT. The statements about the command word (30_encoding.md R53 to R61): decoder and encoder as inverses, the
operand slices as arithmetic, and the reserved bits no command's effect reads (R60). -/
namespace Sys2Proof.Machine

/-! ### Decoding and encoding (R54 to R61) -/

/-- Settles O1. -/
theorem decodeOfEncodeIsIdentity : Obligations.DecodeOfEncodeIsIdentity := decodeWord_encodeInstr

section Fields
variable (w : CmdWord)

/-- A word is OP and its payload side by side (R53). -/
theorem opField_append_payload : opField w ++ w.extractLsb' 0 62 = w := by
  rw [opField, BitVec.extractLsb'_append_extractLsb'_eq_extractLsb' (by decide), BitVec.extractLsb'_eq_self]

/-- Format S's fields side by side are the whole payload (R55). -/
theorem payloadS_fields : payloadS (climateField w) (rsvdSField w) = w.extractLsb' 0 62 := by
  simp only [payloadS, climateField, rsvdSField, code_modeOf, code_fanOf, code_swingOf]
  iterate 5 rw [BitVec.extractLsb'_append_extractLsb'_eq_extractLsb' (by decide)]

/-- Format F's fields side by side are the whole payload (R58). -/
theorem payloadF_fields : w.extractLsb' 52 10 ++ frameField w = w.extractLsb' 0 62 :=
  BitVec.extractLsb'_append_extractLsb'_eq_extractLsb' (by decide)

/-- The word of what the decoder reads, by OP: each format's fields fill the payload. -/
theorem encodeInstr_decodeWord : encodeInstr (decodeWord w) = w := by
  have hw := opField_append_payload w
  obtain hop | hop | hop | hop := op_cases w <;> rw [hop] at hw
  · rw [decodeWord_of_op_zero hop, encodeInstr, hw]
  · rw [decodeWord_of_op_one hop, encodeInstr, payloadS_fields, hw]
  · rw [decodeWord_of_op_two hop, encodeInstr, payloadF_fields, hw]
  · rw [decodeWord_of_op_three hop, encodeInstr, payloadS_fields, hw]

/-- Format S's operands as arithmetic on the word's number (R55, R56, R79). -/
theorem climateField_toNat :
    (climateField w).mode.code.toNat = w.toNat % 4 ∧ (climateField w).fan.code.toNat = w.toNat / 4 % 4 ∧
    (climateField w).swing.code.toNat = w.toNat / 16 % 2 ∧ (climateField w).temp.toNat = w.toNat / 256 % 65536 := by
  simp [climateField, Nat.shiftRight_eq_div_pow]

theorem frameField_toNat : (frameField w).toNat = w.toNat % 2 ^ 52 := by simp [frameField]

end Fields

/-- Settles O2. -/
theorem encodeOfDecodeIsIdentity : Obligations.EncodeOfDecodeIsIdentity := encodeInstr_decodeWord

/-- Settles O3: OP picks the command (R61), and `climateField_toNat` and `frameField_toNat` read the operands. -/
theorem decoderReadsOperandSlices : Obligations.DecoderReadsOperandSlices := by
  intro w
  have hop {n : Nat} (hlt : n < 4) (h : w.toNat / 2 ^ 62 = n) : opField w = BitVec.ofNat 2 n := by
    rw [← opField_toNat] at h
    rw [← h, BitVec.ofNat_toNat, BitVec.setWidth_eq]
  refine ⟨fun h => ⟨_, decodeWord_of_op_zero (hop (by decide) h)⟩,
    fun h => ⟨_, _, decodeWord_of_op_one (hop (by decide) h), climateField_toNat w⟩,
    fun h => ⟨_, _, decodeWord_of_op_two (hop (by decide) h), frameField_toNat w⟩,
    fun h => ⟨_, _, decodeWord_of_op_three (hop (by decide) h), climateField_toNat w⟩⟩

/-- Settles O4. -/
theorem sampleWordsDecode : Obligations.SampleWordsDecode := by
  unfold Obligations.SampleWordsDecode
  decide

/-! ### Reserved bits (R60) -/

section Reserved
variable {v w m : CmdWord}

/-- Words that agree under a mask agree on every slice the mask covers. -/
theorem extractLsb'_eq_of_and_eq (h : v &&& m = w &&& m) (lo len : Nat)
    (hm : m.extractLsb' lo len = BitVec.allOnes len) : v.extractLsb' lo len = w.extractLsb' lo len := by
  have hslice := congrArg (BitVec.extractLsb' lo len) h
  rwa [BitVec.extractLsb'_and, BitVec.extractLsb'_and, hm, BitVec.and_allOnes, BitVec.and_allOnes] at hslice

/-- The mask of O5's second clause covers OP and the operands of format S. -/
theorem operands_eq_of_maskS (h : v &&& 0xC000000000FFFF1F#64 = w &&& 0xC000000000FFFF1F#64) :
    opField v = opField w ∧ climateField v = climateField w := by
  have hslice := extractLsb'_eq_of_and_eq h
  refine ⟨hslice 62 2 (by decide), ?_⟩
  rw [climateField, climateField, hslice 0 2 (by decide), hslice 2 2 (by decide), hslice 4 1 (by decide),
    hslice 8 16 (by decide)]

/-- The mask of O5's third clause covers OP and FRM. -/
theorem operands_eq_of_maskF (h : v &&& 0xC00FFFFFFFFFFFFF#64 = w &&& 0xC00FFFFFFFFFFFFF#64) :
    opField v = opField w ∧ frameField v = frameField w :=
  ⟨extractLsb'_eq_of_and_eq h 62 2 (by decide), extractLsb'_eq_of_and_eq h 0 52 (by decide)⟩

/-- A command's meaning reads OP and the operands of its format, and no reserved bit (R60). -/
theorem exec_decodeWord_congr (hop : opField v = opField w)
    (hclimate : (opField v).toNat % 2 = 1 → climateField v = climateField w)
    (hframe : (opField v).toNat = 2 → frameField v = frameField w) (s : State) :
    exec (decodeWord v) s = exec (decodeWord w) s := by
  obtain h | h | h | h := op_cases v <;> rw [h] at hclimate hframe <;> have h' := hop.symm.trans h
  · rw [decodeWord_of_op_zero h, decodeWord_of_op_zero h', exec, exec]
  · rw [decodeWord_of_op_one h, decodeWord_of_op_one h', exec, exec, hclimate rfl]
  · rw [decodeWord_of_op_two h, decodeWord_of_op_two h', exec, exec, hframe rfl]
  · rw [decodeWord_of_op_three h, decodeWord_of_op_three h', exec, exec, hclimate rfl]

/-- Two words with the same meaning have the same effect at every edge: in RUN the edge reads neither. -/
theorem step_congr_cmdWord (h : ∀ s, exec (decodeWord v) s = exec (decodeWord w) s) (s : State) (rest : List Inputs)
    (rst valid ready : Bool) :
    step { s with inputs := ⟨rst, valid, v, ready⟩ :: rest } =
      step { s with inputs := ⟨rst, valid, w, ready⟩ :: rest } := by
  cases hphase : s.regs.phase with
  | idle => rw [step_idle_of_inputs _ _ hphase, step_idle_of_inputs _ _ hphase, h]
  | run => rw [step_run_of_inputs _ _ hphase, step_run_of_inputs _ _ hphase]

end Reserved

/-- Every edge has a next state (R125). -/
theorem exists_step_eq_next (s : State) : ∃ t, step s = .next t := by
  obtain ⟨-, h⟩ | ⟨-, hidle, -, h⟩ | ⟨-, -, -, h⟩ | ⟨-, -, -, h⟩ | ⟨-, -, -, h⟩ := step_cases s
  case inr.inl => exact ⟨_, h.trans (exec_idle _ (by simpa using hidle))⟩
  all_goals exact ⟨_, h⟩

/-- Settles O5: each clause fixes OP and the operands of the words' format, and no more is read. -/
theorem reservedBitsChangeNothing : Obligations.ReservedBitsChangeNothing := by
  intro s rest v w rst valid ready hvw
  have hexec : ∀ s, exec (decodeWord v) s = exec (decodeWord w) s := by
    simp only [← opField_toNat] at hvw
    obtain ⟨hv, hw⟩ | ⟨hmask, hodd⟩ | ⟨hmask, htwo⟩ := hvw
    · exact exec_decodeWord_congr (BitVec.eq_of_toNat_eq (hv.trans hw.symm)) (by simp [hv]) (by simp [hv])
    · obtain ⟨hop, hclimate⟩ := operands_eq_of_maskS hmask
      exact exec_decodeWord_congr hop (fun _ => hclimate) (by omega)
    · obtain ⟨hop, hframe⟩ := operands_eq_of_maskF hmask
      exact exec_decodeWord_congr hop (by omega) (fun _ => hframe)
  obtain ⟨t, ht⟩ := exists_step_eq_next { s with inputs := ⟨rst, valid, v, ready⟩ :: rest }
  exact ⟨t, ht, (step_congr_cmdWord hexec s rest rst valid ready).symm.trans ht⟩

end Sys2Proof.Machine
end

section
/-! SUPPORT. The statements about the protocol frame's fields (30_encoding.md R63 to R68) and the element word (R70 to R72,
41_sequencer.md R105). -/
namespace Sys2Proof.Machine

/-! ### The fields of an encoded frame (R63) -/

theorem enc_frame (c : Config) (x : Climate) : (enc c x).frame = frameOf (fieldsOf c x) := rfl

/-- The six codes of R66. -/
theorem modeFan_mem (m : Mode) (f : Fan) :
    (mfq params m f).1 ∈ [0x01#8, 0x03#8, 0x08#8, 0x11#8, 0x22#8, 0x24#8] := by
  cases m <;> cases f <;> decide

theorem swingCode_mem (s : Swing) : swingCode params s ∈ [0x2#3, 0x4#3] := by cases s <;> decide

theorem powerCode_mem (m : Mode) : powerCode params m ∈ [0x0#4, 0x3#4] := by cases m <;> decide

/-- R90: the tens digit of a temperature of 15 to 30 °C. -/
theorem tempTens_mem (m : Mode) (t : Temp) : tempTens (ci params m t) ∈ [1#4, 2#4, 3#4] := by
  obtain ⟨-, -, hlo, hhi⟩ := ci_bounds .up m t
  change _ ≤ ci params m t at hlo
  change ci params m t ≤ 30 at hhi
  have hlo : 15 ≤ ci params m t := by split at hlo <;> omega
  obtain h | h | h : ci params m t / 10 = 1 ∨ ci params m t / 10 = 2 ∨ ci params m t / 10 = 3 := by omega
  all_goals rw [tempTens, h]; decide

/-- Settles O30: a slice of the frame is the field stored there (`frameOf_eq_append`), and each field has its range. -/
theorem encodedFrameFieldRanges : Obligations.EncodedFrameFieldRanges := by
  intro x
  rw [enc_frame, modeFanField_frameOf, swingCodeField_frameOf, tempTensField_frameOf, powerField_frameOf]
  exact ⟨modeFan_mem x.mode x.fan, swingCode_mem x.swing, tempTens_mem x.mode x.temp, zeroLowField_frameOf _,
    timerHoursField_frameOf _, timerEnField_frameOf _, powerCode_mem x.mode, zeroTopField_frameOf _⟩

/-! ### Elements (R70 to R72, R105) -/

/-- Settles O38. -/
theorem elementWordOfEachKind : Obligations.ElementWordOfEachKind := by
  unfold Obligations.ElementWordOfEachKind
  decide

/-- What the transmitter drives for an element: CARRIER_HZ in a mark, nothing in a space (R105). -/
theorem carrier_pulseOf (r : Regs) (k : ElemKind) :
    (pulseOf (out r) (elemWord params k)).carrier = if k.level = 1#1 then some 38000#16 else none := by
  cases k <;> rfl

/-- A data bit's element is a space whichever bit it carries (R102). -/
theorem level_dataSpace (c : Config) (f : Frame) (k : Nat) : (dataSpace c f k).level = 0#1 := by
  unfold dataSpace
  split <;> rfl

/-- Settles O42: header, data bits and footer each begin with a mark, and marks and spaces alternate. -/
theorem everyMarkIsAtTheCarrier : Obligations.EveryMarkIsAtTheCarrier := by
  intro f r
  rw [emission, List.map_map, List.map_map, map_pulseSequence]
  simp only [Function.comp_apply, carrier_pulseOf, level_dataSpace]
  rfl

end Sys2Proof.Machine
end

section
/-! SUPPORT. The statements about the assembler and disassembler (30_encoding.md R75 to R77): what a line of comma-separated
operands assembles to, said once. -/
namespace Sys2Proof.Machine

/-! ### Reserved bits of an assembled command (R75) -/

section ReservedZero
variable {fo : Frame} {i : Instr}

theorem wellFormed_of_map_eq_ok {α : Type} {f : α → Instr} (hf : ∀ a, (f a).wellFormed = true)
    {x : Except AsmError α} (h : x.map f = .ok i) : i.wellFormed = true := by
  cases x with
  | error e => cases h
  | ok a => cases h; exact hf a

/-- Every mnemonic's branch writes its reserved bits as 0. -/
theorem wellFormed_of_assembleCommand {mnemonic : Text} {ops : List Text}
    (h : assembleCommand fo mnemonic ops = .ok i) : i.wellFormed = true := by
  unfold assembleCommand at h
  split_ifs at h
  · -- NOP
    split at h <;> cases h
    rfl
  · exact wellFormed_of_map_eq_ok (fun _ => rfl) h -- ENCODE
  · exact wellFormed_of_map_eq_ok (fun _ => rfl) h -- TRANSMIT
  · -- SEQUENCE
    split at h
    · exact wellFormed_of_map_eq_ok (fun _ => rfl) h
    · cases h
  · -- RESEND
    split at h <;> cases h
    rfl
  · -- POWEROFF
    split at h
    · exact wellFormed_of_map_eq_ok (fun _ => rfl) h
    · cases h

theorem assembleLine_eq_some {line : Text} {w : CmdWord} (h : assembleLine fo line = .ok (some w)) :
    ∃ mnemonic ops i, assembleCommand fo mnemonic ops = .ok i ∧ encodeInstr i = w := by
  unfold assembleLine at h
  dsimp only at h
  split at h
  · cases h
  · generalize hcmd : assembleCommand _ _ _ = res at h
    cases res with
    | error e => cases h
    | ok i => cases h; exact ⟨_, _, i, hcmd, rfl⟩

end ReservedZero

/-- Settles O51: the assembled word decodes to the assembled command (O1), whose reserved bits are 0. -/
theorem assemblerWritesReservedZero : Obligations.AssemblerWritesReservedZero := by
  intro fo line w h
  obtain ⟨_, _, i, hcmd, rfl⟩ := assembleLine_eq_some h
  rw [decodeWord_encodeInstr]
  exact wellFormed_of_assembleCommand hcmd

/-! ### A line of operands (R75) -/

/-- Operands as R77 prints them: a blank before each, and a comma between two. -/
def operandsText (a : Text) (ops : List Text) : Text := ' ' :: (a ++ ops.flatMap fun o => ',' :: ' ' :: o)

section Operands
variable {fo : Frame} {m a : Text} {ops : List Text}

theorem operandsText_cons (a o : Text) (ops : List Text) :
    operandsText a (o :: ops) = ' ' :: a ++ ',' :: operandsText o ops := by
  simp [operandsText]

theorem map_trim_pieces_operandsText (h : ∀ o ∈ a :: ops, ∀ c ∈ o, c ≠ ',') :
    (pieces ',' (operandsText a ops)).map trim = (a :: ops).map trim := by
  induction ops generalizing a with
  | nil =>
    have ha := ne_cons ',' ' ' a (by decide) (h a (by simp))
    simp [operandsText, pieces_none _ _ ha, trim_blank]
  | cons o ops ih =>
    have ha := ne_cons ',' ' ' a (by decide) (h a (by simp))
    rw [operandsText_cons, pieces_sep _ _ _ ha, List.map_cons, trim_blank, ih (List.forall_mem_cons.mp h).2]
    rfl

theorem operandTexts_operandsText (h : ∀ o ∈ a :: ops, ∀ c ∈ o, c ≠ ',') (hne : trim (operandsText a ops) ≠ []) :
    operandTexts (operandsText a ops) = (a :: ops).map trim := by
  rw [operandTexts, if_neg hne, map_trim_pieces_operandsText h]

theorem operandsText_ne_semicolon (h : ∀ o ∈ a :: ops, ∀ c ∈ o, c ≠ ';') : ∀ c ∈ operandsText a ops, c ≠ ';' := by
  induction ops generalizing a with
  | nil => exact ne_cons ';' ' ' _ (by decide) (by simpa using h)
  | cons o ops ih =>
    obtain ⟨ha, hops⟩ := List.forall_mem_cons.mp h
    rw [operandsText_cons]
    exact ne_append _ _ _ (ne_cons _ _ _ (by decide) ha) (ne_cons _ _ _ (by decide) (ih hops))

/-- A mnemonic with operands assembles as the command they make, whatever blanks stand around an operand. -/
theorem assembleLine_operandsText (hm : m ≠ []) (hplain : PlainText m)
    (hops : ∀ o ∈ a :: ops, ∀ c ∈ o, c ≠ ',' ∧ c ≠ ';') (hne : trim (operandsText a ops) ≠ []) :
    assembleLine fo (m ++ operandsText a ops) =
      (assembleCommand fo (upper m) ((a :: ops).map trim)).map fun i => some (encodeInstr i) := by
  have hblank : (m.all fun c => !isBlank c) = true := by simpa using fun c hc => (hplain c hc).2.2
  have hsemi : ∀ c ∈ m ++ operandsText a ops, c ≠ ';' :=
    ne_append _ _ _ (fun c hc => (hplain c hc).2.1) (operandsText_ne_semicolon fun o ho c hc => (hops o ho c hc).2)
  have hline : assembleLine fo (m ++ operandsText a ops) =
      (assembleCommand fo (upper m) (operandTexts (operandsText a ops))).map _ := assembleLine_command fo m _ hm hblank hsemi
  rw [hline, operandTexts_operandsText (fun o ho c hc => (hops o ho c hc).1) hne]

/-- Operands without blanks are read as they stand. -/
theorem assembleLine_plainOperands (hm : m ≠ []) (hplain : PlainText m) (ha : a ≠ []) (hops : ∀ o ∈ a :: ops, PlainText o) :
    assembleLine fo (m ++ operandsText a ops) =
      (assembleCommand fo (upper m) (a :: ops)).map fun i => some (encodeInstr i) := by
  obtain ⟨c, a, rfl⟩ := List.exists_cons_of_ne_nil ha
  have hc : isBlank c = false := (hops (c :: a) (by simp) c (by simp)).2.2
  have htrim : ((c :: a) :: ops).map trim = (c :: a) :: ops :=
    (List.map_congr_left fun o ho => trim_of_no_blank o fun c hc => (hops o ho c hc).2.2).trans (List.map_id _)
  rw [assembleLine_operandsText hm hplain (fun o ho c hc => ⟨(hops o ho c hc).1, (hops o ho c hc).2.1⟩)
    (trim_ne_nil_of_mem _ c (by simp [operandsText]) hc), htrim]

end Operands

/-! ### Operands that read (R75) -/

section Reading
variable {fo : Frame}

theorem afterPrefix_append (p t : Text) : afterPrefix p (p ++ t) = some t := by
  induction p with
  | nil => cases t <;> rfl
  | cons c p ih => rw [List.cons_append, afterPrefix, if_pos rfl, ih]

theorem operand_eq_ok {α : Type} {key v : Text} {value : Text → Option α} {e : AsmError} {x : α} (h : value v = some x) :
    operand key value e (key ++ ['='] ++ v) = .ok x := by
  rw [operand, afterPrefix_append]
  simp only [h]

theorem lookupName_modeText (m : Mode) : lookupName modeNames (modeText m) = some m := by cases m <;> decide

theorem lookupName_fanText (f : Fan) : lookupName fanNames (fanText f) = some f := by cases f <;> decide

theorem lookupName_swingText (sw : Swing) : lookupName swingNames (swingText sw) = some sw := by cases sw <;> decide

theorem plainText_append {t u : Text} (ht : PlainText t) (hu : PlainText u) : PlainText (t ++ u) :=
  List.forall_mem_append.mpr ⟨ht, hu⟩

theorem plainText_modeText (m : Mode) : PlainText (modeText m) := by
  cases m <;> exact plainText_of_all _ rfl

theorem plainText_fanText (f : Fan) : PlainText (fanText f) := by
  cases f <;> exact plainText_of_all _ rfl

theorem plainText_swingText (sw : Swing) : PlainText (swingText sw) := by
  cases sw <;> exact plainText_of_all _ rfl

theorem plainText_hexDigits (k v : Nat) : PlainText (hexDigits k v) :=
  plainText_of_readDigits 16 hexVal hexVal_plain _ 0 _ (readDigits_hexDigits k v 0)

/-- The operands of ENCODE and TRANSMIT after the first, in R75's order; `v` is the text of the temperature. -/
def climateTail (f : Fan) (sw : Swing) (v : Text) : List Text :=
  [['f', 'a', 'n', '='] ++ fanText f, ['s', 'w', 'i', 'n', 'g', '='] ++ swingText sw, ['t', 'e', 'm', 'p', '='] ++ v]

theorem climateOperands_eq_ok (m : Mode) (f : Fan) (sw : Swing) {v : Text} {t : Temp} (h : readTemp v = some t) :
    climateOperands ((['m', 'o', 'd', 'e', '='] ++ modeText m) :: climateTail f sw v) = .ok ⟨m, f, sw, t⟩ := by
  have hmode : modeOperand (['m', 'o', 'd', 'e', '='] ++ modeText m) = .ok m := operand_eq_ok (lookupName_modeText m)
  have hfan : fanOperand (['f', 'a', 'n', '='] ++ fanText f) = .ok f := operand_eq_ok (lookupName_fanText f)
  have hswing : swingOperand (['s', 'w', 'i', 'n', 'g', '='] ++ swingText sw) = .ok sw :=
    operand_eq_ok (lookupName_swingText sw)
  have htemp : tempOperand (['t', 'e', 'm', 'p', '='] ++ v) = .ok t := operand_eq_ok h
  rw [climateTail, climateOperands, hmode, hfan, hswing, htemp]
  rfl

/-- A line of ENCODE's or TRANSMIT's operands, its temperature in either form of R75; `i` is the command it makes. -/
theorem assembleLine_climate {mn : Text} {i : Climate → Instr} (hm : mn ≠ []) (hplain : PlainText mn)
    (hcmd : ∀ ops, assembleCommand fo (upper mn) ops = (climateOperands ops).map i)
    (m : Mode) (f : Fan) (sw : Swing) {v : Text} {t : Temp} (h : readTemp v = some t) :
    assembleLine fo (mn ++ operandsText (['m', 'o', 'd', 'e', '='] ++ modeText m) (climateTail f sw v)) =
      .ok (some (encodeInstr (i ⟨m, f, sw, t⟩))) := by
  rw [assembleLine_plainOperands hm hplain (by simp), hcmd, climateOperands_eq_ok m f sw h]
  · rfl
  · simp only [climateTail, List.forall_mem_cons]
    exact ⟨plainText_append (plainText_of_all _ rfl) (plainText_modeText m),
      plainText_append (plainText_of_all _ rfl) (plainText_fanText f),
      plainText_append (plainText_of_all _ rfl) (plainText_swingText sw),
      plainText_append (plainText_of_all _ rfl) (plainText_of_readTemp v t h), by simp⟩

variable (m : Mode) (f : Fan) (sw : Swing) {v : Text} {t : Temp} (h : readTemp v = some t)
include h

theorem assembleLine_encode :
    assembleLine fo (['E', 'N', 'C', 'O', 'D', 'E'] ++
        operandsText (['m', 'o', 'd', 'e', '='] ++ modeText m) (climateTail f sw v)) =
      .ok (some (encodeInstr (.encode ⟨m, f, sw, t⟩ RsvdS.zero))) :=
  assembleLine_climate (i := fun x => .encode x RsvdS.zero) (by simp) (plainText_of_all _ rfl) (fun _ => rfl) m f sw h

theorem assembleLine_transmit :
    assembleLine fo (['T', 'R', 'A', 'N', 'S', 'M', 'I', 'T'] ++
        operandsText (['m', 'o', 'd', 'e', '='] ++ modeText m) (climateTail f sw v)) =
      .ok (some (encodeInstr (.transmit ⟨m, f, sw, t⟩ RsvdS.zero))) :=
  assembleLine_climate (i := fun x => .transmit x RsvdS.zero) (by simp) (plainText_of_all _ rfl) (fun _ => rfl) m f sw h

end Reading

/-- FRM as R77 prints it. -/
theorem assembleLine_sequence (fo f : Frame) :
    assembleLine fo (['S', 'E', 'Q', 'U', 'E', 'N', 'C', 'E'] ++
        operandsText (['f', 'r', 'a', 'm', 'e', '=', '0', 'x'] ++ hexDigits 13 f.toNat) []) =
      .ok (some (encodeInstr (.sequence f 0#10))) := by
  have hplain : PlainText (['f', 'r', 'a', 'm', 'e', '=', '0', 'x'] ++ hexDigits 13 f.toNat) :=
    plainText_append (plainText_of_all _ rfl) (plainText_hexDigits _ _)
  have hframe : frameOperand (['f', 'r', 'a', 'm', 'e', '=', '0', 'x'] ++ hexDigits 13 f.toNat) = .ok f :=
    operand_eq_ok (readFrame_hexDigits f)
  have hcmd : assembleCommand fo ['S', 'E', 'Q', 'U', 'E', 'N', 'C', 'E'] [_] = _ :=
    congrArg (Except.map fun v => Instr.sequence v 0#10) hframe
  rw [assembleLine_plainOperands (by simp) (plainText_of_all _ rfl) (by simp) (List.forall_mem_singleton.mpr hplain)]
  exact congrArg (Except.map _) hcmd

/-! ### Disassembled lines (R77) -/

theorem eq_zero_of_isZero {r : RsvdS} (h : r.isZero = true) : r = RsvdS.zero := by
  cases r
  simpa [RsvdS.isZero, RsvdS.zero] using h

theorem climateText_eq_operandsText (x : Climate) :
    climateText x = operandsText (['m', 'o', 'd', 'e', '='] ++ modeText x.mode)
      (climateTail x.fan x.swing ('0' :: 'x' :: hexDigits 4 x.temp.toNat)) := by
  simp [climateText, operandsText, climateTail]

/-- The line of a command whose reserved bits are 0 assembles to its word. -/
theorem assembleLine_instrText (fo : Frame) {i : Instr} (h : i.wellFormed = true) :
    assembleLine fo (instrText i) = .ok (some (encodeInstr i)) := by
  cases i with
  | nop r =>
    obtain rfl : r = 0#62 := by simpa [Instr.wellFormed] using h
    rfl
  | encode x r =>
    obtain rfl := eq_zero_of_isZero h
    rw [instrText, climateText_eq_operandsText]
    exact (congrArg _ (List.append_nil _)).trans (assembleLine_encode x.mode x.fan x.swing (readTemp_hexDigits x.temp))
  | sequence f r =>
    obtain rfl : r = 0#10 := by simpa [Instr.wellFormed] using h
    exact (congrArg _ (List.append_nil _)).trans (assembleLine_sequence fo f)
  | transmit x r =>
    obtain rfl := eq_zero_of_isZero h
    rw [instrText, climateText_eq_operandsText]
    exact (congrArg _ (List.append_nil _)).trans (assembleLine_transmit x.mode x.fan x.swing (readTemp_hexDigits x.temp))

/-- Settles O50: `assembleLine_instrText` for the command a word decodes to, and O2. -/
theorem assemblyOfDisassembly : Obligations.AssemblyOfDisassembly := by
  intro fo w hw
  rw [disassemble, assembleLine_instrText fo hw, encodeInstr_decodeWord]

/-! ### Pseudo-instructions (R76) -/

/-- POWEROFF's line and the line it expands to reach the same operand texts, in another order. -/
theorem assembleLine_powerOffText (fo : Frame) {t s : Text} (h : ∀ c ∈ t ++ s, c ≠ ',' ∧ c ≠ ';') :
    assembleLine fo (powerOffText t s) = assembleLine fo (powerOffExpansion t s) := by
  obtain ⟨ht, hs⟩ := List.forall_mem_append.mp h
  have hoff : powerOffText t s = ['P', 'O', 'W', 'E', 'R', 'O', 'F', 'F'] ++ operandsText t [s] := by
    simp [powerOffText, operandsText]
  have hexp : powerOffExpansion t s = ['T', 'R', 'A', 'N', 'S', 'M', 'I', 'T'] ++
      operandsText ['m', 'o', 'd', 'e', '=', 'O', 'F', 'F'] [['f', 'a', 'n', '=', 'L', 'O', 'W'], s, t] := by
    simp [powerOffExpansion, operandsText]
  rw [hoff, hexp,
    assembleLine_operandsText (by simp) (plainText_of_all _ rfl) (by simpa using ⟨ht, hs⟩)
      (trim_ne_nil_of_mem _ ',' (by simp [operandsText]) rfl),
    assembleLine_operandsText (by simp) (plainText_of_all _ rfl) (by simpa using ⟨hs, ht⟩)
      (trim_ne_nil_of_mem _ ',' (by simp [operandsText]) rfl)]
  rfl

/-- Settles O53. -/
theorem pseudoInstructionsExpand : Obligations.PseudoInstructionsExpand := by
  refine ⟨fun _ => rfl, fun fo t s h => assembleLine_powerOffText fo h, ?_⟩
  intro fo v t sw hv
  have hplain : PlainText (['t', 'e', 'm', 'p', '='] ++ v ++ (['s', 'w', 'i', 'n', 'g', '='] ++ swingText sw)) :=
    plainText_append (plainText_append (plainText_of_all _ rfl) (plainText_of_readTemp v t hv))
      (plainText_append (plainText_of_all _ rfl) (plainText_swingText sw))
  rw [assembleLine_powerOffText fo fun c hc => ⟨(hplain c hc).1, (hplain c hc).2.1⟩]
  refine (congrArg _ ?_).trans (assembleLine_transmit .off .low sw hv)
  simp [powerOffExpansion, operandsText, climateTail, modeText, fanText]

end Sys2Proof.Machine
end

section
/-! SUPPORT. The decimal form of a temperature (30_encoding.md R75): what its text reads as, and when it is taken. -/
namespace Sys2Proof.Machine

/-! ### A decimal already read -/

/-- An integer is taken as a Q8.8 pattern exactly if it is one. -/
theorem ite_ofInt_eq_some_iff (v : Int) (t : Temp) :
    (if -32768 ≤ v ∧ v ≤ 32767 then some (BitVec.ofInt 16 v) else none) = some t ↔ t.toInt = v := by
  constructor
  · intro h
    split_ifs at h with hrange
    cases h
    rw [BitVec.toInt_ofInt, Int.bmod_eq_of_le] <;> omega
  · rintro rfl
    have hlo := BitVec.le_two_mul_toInt (x := t)
    have hhi := BitVec.two_mul_toInt_lt (x := t)
    rw [if_pos (by omega), BitVec.ofInt_toInt]

/-- `num / den` times 256 is `v` in the 16-bit range, with nothing left over. -/
theorem q88OfDecimal_eq_some_iff (neg : Bool) {num den : Nat} (t : Temp) (hden : 0 < den) :
    q88OfDecimal neg num den = some t ↔ t.toInt * den = (if neg then -1 else 1) * ((num : Int) * 256) := by
  unfold q88OfDecimal
  by_cases hdvd : den ∣ num * 256
  · obtain ⟨q, hq⟩ := hdvd
    have hnum : (num : Int) * 256 = q * den := by rw [mul_comm (q : Int)]; exact_mod_cast hq
    have hsign : (if neg then -1 else 1) * ((q : Int) * den) = (if neg then -(q : Int) else q) * den := by
      cases neg <;> simp
    rw [hq, if_neg (by simp), Nat.mul_div_cancel_left q hden, ite_ofInt_eq_some_iff, hnum, hsign]
    exact (mul_left_inj' (by exact_mod_cast hden.ne')).symm
  · rw [if_pos (mt Nat.dvd_of_mod_eq_zero hdvd)]
    refine iff_of_false (by simp) fun h => hdvd ?_
    refine Int.natCast_dvd_natCast.mp ⟨(if neg then -1 else 1) * t.toInt, ?_⟩
    push_cast
    cases neg <;> simp only [Bool.false_eq_true, if_true, if_false] at h ⊢ <;> linarith

/-! ### The text of a decimal -/

section Text
variable {whole frac : List (Fin 10)}

theorem digitText_length (l : List (Fin 10)) : (digitText l).length = l.length := List.length_map _

theorem decimalText_true (whole frac : List (Fin 10)) : decimalText true whole frac = '-' :: decimalText false whole frac := rfl

/-- A decimal holds no second minus sign and no `0x`. -/
theorem decimalText_false_ne (d : Char) (hd : d = '-' ∨ d = 'x') : ∀ c ∈ decimalText false whole frac, c ≠ d := by
  have hdigits (l : List (Fin 10)) : ∀ c ∈ digitText l, c ≠ d := digitText_ne l d (.inr hd)
  have hpoint : '.' ≠ d := by rintro rfl; revert hd; decide
  simp only [decimalText]
  refine ne_append d _ _ (ne_append d _ _ (by simp) (hdigits whole)) ?_
  split
  · simp
  · exact ne_cons d _ _ hpoint (hdigits frac)

theorem decimalText_ne_x (neg : Bool) : ∀ c ∈ decimalText neg whole frac, c ≠ 'x' := by
  cases neg with
  | false => exact decimalText_false_ne 'x' (.inr rfl)
  | true =>
    rw [decimalText_true]
    exact ne_cons 'x' '-' _ (by decide) (decimalText_false_ne 'x' (.inr rfl))

theorem afterPrefix_eq_none {p t : Text} {d : Char} (hd : d ∈ p) (h : ∀ c ∈ t, c ≠ d) : afterPrefix p t = none := by
  by_contra hne
  obtain ⟨u, hu⟩ := Option.ne_none_iff_exists'.mp hne
  refine h d ?_ rfl
  rw [afterPrefix_eq_some p t u hu]
  exact List.mem_append_left u hd

/-- The digits before and after the point are one numeral, over a power of ten for those after it. -/
theorem readDecimal_decimalText (hwhole : whole ≠ []) :
    readDecimal (decimalText false whole frac) =
      some (Nat.ofDigits 10 ((whole ++ frac).map Fin.val).reverse, 10 ^ frac.length) := by
  have hpoint (l : List (Fin 10)) : ∀ c ∈ digitText l, c ≠ '.' := digitText_ne l '.' (.inl rfl)
  have hne {l : List (Fin 10)} (hl : l ≠ []) : digitText l ≠ [] := by simpa [digitText] using hl
  have happend : digitText whole ++ digitText frac = digitText (whole ++ frac) := List.map_append.symm
  by_cases hfrac : frac = []
  · subst hfrac
    have htext : decimalText false whole [] = digitText whole := by simp [decimalText]
    rw [htext, readDecimal, pieces_none _ _ (hpoint whole)]
    simp [hne hwhole, readDigits_digitText]
  · have htext : decimalText false whole frac = digitText whole ++ '.' :: digitText frac := by simp [decimalText, hfrac]
    rw [htext, readDecimal, pieces_sep _ _ _ (hpoint whole), pieces_none _ _ (hpoint frac)]
    simp [hne hwhole, hne hfrac, happend, readDigits_digitText, digitText_length]

/-- The text of a decimal reads as that decimal, taken exactly or refused. -/
theorem readTemp_decimalText (neg : Bool) (hwhole : whole ≠ []) :
    readTemp (decimalText neg whole frac) =
      q88OfDecimal neg (Nat.ofDigits 10 ((whole ++ frac).map Fin.val).reverse) (10 ^ frac.length) := by
  have hhex : afterPrefix ['0', 'x'] (decimalText neg whole frac) = none :=
    afterPrefix_eq_none (d := 'x') (by simp) (decimalText_ne_x neg)
  rw [readTemp, hhex]
  cases neg with
  | false =>
    have hminus : afterPrefix ['-'] (decimalText false whole frac) = none :=
      afterPrefix_eq_none (d := '-') (by simp) (decimalText_false_ne '-' (.inl rfl))
    simp only [hminus, readDecimal_decimalText hwhole, Option.bind_some]
  | true =>
    have hminus : afterPrefix ['-'] (decimalText true whole frac) =
        some (decimalText false whole frac) := afterPrefix_append ['-'] _
    simp only [hminus, readDecimal_decimalText hwhole, Option.bind_some]

end Text

/-- Settles O52. -/
theorem decimalTemperatureIsExact : Obligations.DecimalTemperatureIsExact := by
  refine ⟨fun neg _ _ t hden => q88OfDecimal_eq_some_iff neg t hden, ?_⟩
  intro neg whole frac t hwhole
  rw [readTemp_decimalText neg hwhole, q88OfDecimal_eq_some_iff neg t (by positivity)]

end Sys2Proof.Machine
end

section
/-! SUPPORT. The statements about the State Encoder (40_encoder.md R80 to R99): the fan and mode codes, the temperature path,
the nibble sum with its checksum, and the corrected state as a fixed point of `enc`. -/
namespace Sys2Proof.Machine

/-! ### The fan, and the code of mode and fan (R81, R82) -/

section Fan
variable (c : Config) (m : Mode) (f g : Fan) (sw : Swing) (t : Temp)

theorem fanOut_eq_ite : fanOut m f = if m = .heat ∧ f = .medium then .low else f := by cases m <;> cases f <;> rfl

theorem fanOut_idem : fanOut m (fanOut m f) = fanOut m f := by cases m <;> cases f <;> rfl

/-- R82: HEAT's MEDIUM and LOW have one code, so the normalised fan has the code of the fan it stands for. -/
theorem mfq_fanOut : mfq c m (fanOut m f) = mfq c m f := by cases m <;> cases f <;> rfl

/-- R81: in OFF and DRY the fan has no code of its own. -/
theorem mfq_off_dry (h : m = .off ∨ m = .dry) : mfq c m f = mfq c m g := by rcases h with rfl | rfl <;> rfl

variable {c m f g}

/-- The fan reaches the frame through MFQ alone. -/
theorem frame_congr_fan (h : mfq c m f = mfq c m g) : (enc c ⟨m, f, sw, t⟩).frame = (enc c ⟨m, g, sw, t⟩).frame := by
  simp only [enc, fieldsOf, h]

end Fan

/-- Settles O27. -/
theorem fanIsNormalised : Obligations.FanIsNormalised :=
  ⟨fun _ x => fanOut_eq_ite x.mode x.fan, fun c m f g sw t hm => frame_congr_fan sw t (mfq_off_dry c m f g hm)⟩

/-- Settles O28: the frame's two slices are the two halves of MFQ, and MFQ of `params` is the table. -/
theorem jointModeFanCode : Obligations.JointModeFanCode := by
  refine ⟨fun sw t row hrow => ?_, fun m f => (mfq_fanOut params m f).symm⟩
  have htable : mfq params row.1 row.2.1 = row.2.2 := by
    revert row
    decide
  rw [enc_frame, modeFanField_frameOf, quietField_frameOf, fieldsOf, htable]
  exact ⟨rfl, rfl⟩

/-- Settles O29. -/
theorem powerTimerAndSwingCodes : Obligations.PowerTimerAndSwingCodes := by
  intro x
  rw [enc_frame, powerField_frameOf, timerEnField_frameOf, timerHoursField_frameOf, swingCodeField_frameOf]
  exact ⟨rfl, rfl, rfl, rfl⟩

/-- Frame bits 51 to 38 (R63): the zero top nibble, POWER and the timer fields. -/
theorem bitsAbove37_frameOf (x : FrameFields) :
    (frameOf x).extractLsb' 38 14 = 0#4 ++ x.power ++ x.timerEn ++ x.timerHours := by
  apply BitVec.eq_of_getLsbD_eq
  intro i hi
  simp only [frameOf_eq_append, BitVec.getLsbD_extractLsb', BitVec.getLsbD_append]
  interval_cases i <;> simp

/-- Settles O37. -/
theorem offFrameIsForced : Obligations.OffFrameIsForced := by
  refine ⟨fun f sw t => ?_, fun f g sw t => ⟨?_, ?_⟩⟩
  · rw [enc_frame, bitsAbove37_frameOf, modeFanField_frameOf, quietField_frameOf]
    refine ⟨?_, rfl, rfl⟩
    simp [fieldsOf, powerCode, params]
  · exact frame_congr_fan sw t (mfq_off_dry params .off f g (.inl rfl))
  · exact frame_congr_fan sw t (mfq_off_dry params .dry f g (.inr rfl))

/-! ### The temperature (R86 to R90) -/

section Temperature
variable (tie : TieMode) (m : Mode) (t : Temp)

/-- R86: the clamp of `params`, in 1/256 °C. -/
theorem c256_params : c256 { params with tieMode := tie } m t =
    min (max t.toInt ((if m = .cool then 17 else 15) * 256)) (30 * 256) := rfl

/-- R87: the clamped integer temperature is in the clamp's range. -/
theorem ci_mem_range : (if m = .cool then 17 else 15) ≤ ci { params with tieMode := tie } m t ∧
    ci { params with tieMode := tie } m t ≤ 30 := by
  obtain ⟨-, -, hlo, hhi⟩ := ci_bounds tie m t
  exact ⟨hlo, hhi⟩

theorem fifteen_le_ci : 15 ≤ ci { params with tieMode := tie } m t := by
  have hlo := (ci_mem_range tie m t).1
  split at hlo <;> omega

/-- R88: what is handed back is the clamped integer, in Q8.8. -/
theorem tempOut_toInt (x : Climate) : (enc { params with tieMode := tie } x).tempOut.toInt =
    256 * ci { params with tieMode := tie } x.mode x.temp :=
  q88OfInt_toInt _ (by have := fifteen_le_ci tie x.mode x.temp; omega) (ci_mem_range tie x.mode x.temp).2

/-- Every TIE_MODE (D8) leaves a whole number of °C as it is. -/
theorem roundQ88_whole (k : Int) : roundQ88 tie (256 * k) = k := by
  unfold roundQ88
  rw [q88One_eq]
  cases tie <;> simp only
  case even => split <;> omega
  all_goals omega

/-- A whole number of °C in the clamp's range is neither clamped nor rounded. -/
theorem ci_of_toInt {k : Int} (ht : t.toInt = 256 * k) (hlo : (if m = .cool then 17 else 15) ≤ k) (hhi : k ≤ 30) :
    ci { params with tieMode := tie } m t = k := by
  have hclamp : c256 { params with tieMode := tie } m t = 256 * k := by
    rw [c256_params, ht]
    omega
  rw [ci, hclamp]
  exact roundQ88_whole tie k

/-- R98: the temperature handed back has the clamped integer of the given one. -/
theorem ci_tempOut (x : Climate) : ci { params with tieMode := tie } x.mode (enc { params with tieMode := tie } x).tempOut =
    ci { params with tieMode := tie } x.mode x.temp := by
  obtain ⟨hlo, hhi⟩ := ci_mem_range tie x.mode x.temp
  exact ci_of_toInt tie x.mode _ (tempOut_toInt tie x) hlo hhi

/-- R87: with ties up, rounding is floor division after adding a half. -/
theorem ci_params : ci params m t = (c256 params m t + 128) / 256 := rfl

end Temperature

/-- Settles O34: `c256` and `ci` are the two numbers. -/
theorem temperatureIsClampedAndRounded : Obligations.TemperatureIsClampedAndRounded := by
  intro x
  have hclamp : c256 params x.mode x.temp = _ := c256_params .up x.mode x.temp
  have hround := ci_params x.mode x.temp
  obtain ⟨hlo, hhi⟩ := ci_mem_range .up x.mode x.temp
  have htemp : (enc params x).tempOut = BitVec.ofInt 16 (256 * ci params x.mode x.temp) := by
    rw [mul_comm]
    rfl
  refine ⟨_, c256 params x.mode x.temp, ci params x.mode x.temp, rfl, hclamp, ?_, ?_, hlo, hhi, ?_, htemp,
    tempOut_toInt .up x⟩
  · omega
  · omega
  · rw [hround, hclamp]
    split <;> omega

/-- A 4-bit field holds an integer of 0 to 15 as it is. -/
theorem toNat_ofInt_nibble {k : Int} (hlo : 0 ≤ k) (hhi : k ≤ 15) : ((BitVec.ofInt 4 k).toNat : Int) = k := by
  rw [BitVec.toNat_ofInt]
  omega

/-- Settles O35. -/
theorem bothTemperatureFields : Obligations.BothTemperatureFields := by
  intro x
  have hlo : 15 ≤ ci params x.mode x.temp := fifteen_le_ci .up x.mode x.temp
  have hhi : ci params x.mode x.temp ≤ 30 := (ci_mem_range .up x.mode x.temp).2
  have htemp : (enc params x).tempOut.toInt = 256 * ci params x.mode x.temp := tempOut_toInt .up x
  rw [enc_frame, tempOfsField_frameOf, tempTensField_frameOf, htemp, Int.mul_ediv_cancel_left _ (by decide)]
  exact ⟨toNat_ofInt_nibble (k := ci params x.mode x.temp - 15) (by omega) (by omega),
    toNat_ofInt_nibble (by omega) (by omega)⟩

/-! ### The frame before the checksum, its nibbles and the checksum (R91 to R94, R97) -/

/-- Settles O31: F0 is its fields side by side (`frameBase_eq_append`). -/
theorem frameFieldsDoNotOverlap : Obligations.FrameFieldsDoNotOverlap := by
  intro x
  rw [frameBase_eq_append]
  simp only [toNat_append_add, BitVec.toNat_ofNat]
  omega

section Checksum
variable (f : Frame) (x : FrameFields)

theorem nibbleSum_eq : nibbleSum f = ((List.range 12).map fun j => f.toNat / 16 ^ (j + 1) % 16).sum := by
  simp only [nibbleSum, nibble_toNat]

/-- The sum of all thirteen nibbles is nibble 0 and the S of R92. -/
theorem sum_nibbles : ((List.range 13).map fun j => f.toNat / 16 ^ j % 16).sum = f.toNat % 16 + nibbleSum f := by
  rw [List.range_succ_eq_map, List.map_cons, List.map_map, List.sum_cons, nibbleSum_eq, pow_zero, Nat.div_one]
  rfl

/-- S does not read bits 3 to 0. -/
theorem nibbleSum_congr {f g : Frame} (h : f.toNat / 16 = g.toNat / 16) : nibbleSum f = nibbleSum g := by
  simp only [nibbleSum_eq, pow_succ', ← Nat.div_div_eq_div_mul, h]

/-- Twelve nibbles of at most 15. -/
theorem nibbleSum_le : nibbleSum f ≤ 180 := by
  have hle : ∀ n ∈ (List.range 12).map fun j => (nibble f (j + 1)).toNat, n ≤ 15 := by
    intro n hn
    obtain ⟨j, -, rfl⟩ := List.mem_map.mp hn
    exact Nat.le_of_lt_succ (nibble f (j + 1)).isLt
  simpa [nibbleSum] using List.sum_le_card_nsmul _ 15 hle

theorem checksum_toNat : (checksum f).toNat = 15 - nibbleSum f % 16 := by
  rw [checksum, BitVec.toNat_ofNat]
  omega

/-- R93: subtracting from 0xF complements every bit. -/
theorem checksum_eq_not : checksum f = ~~~(BitVec.ofNat 4 (nibbleSum f)) := by
  apply BitVec.eq_of_toNat_eq
  rw [checksum_toNat, BitVec.toNat_not, BitVec.toNat_ofNat]

theorem frameBase_mod_sixteen : (frameBase x).toNat % 16 = 0 := by
  have hzero := congrArg BitVec.toNat (nibble_zero_frameBase x)
  simpa [nibble_toNat] using hzero

/-- R94: the checksum is stored in nibble 0. -/
theorem frameOf_mod_sixteen : (frameOf x).toNat % 16 = 15 - nibbleSum (frameBase x) % 16 := by
  calc (frameOf x).toNat % 16
      = (nibble (frameOf x) 0).toNat := by simp [nibble_toNat]
    _ = (checksum (frameBase x)).toNat := congrArg BitVec.toNat (cksField_frameOf x)
    _ = 15 - nibbleSum (frameBase x) % 16 := checksum_toNat _

/-- R94: storing the checksum leaves the other nibbles as they were. -/
theorem frameOf_div_sixteen : (frameOf x).toNat / 16 = (frameBase x).toNat / 16 := by
  have hshift : frameOf x >>> 4 = frameBase x >>> 4 := by
    apply BitVec.eq_of_getLsbD_eq
    intro i _
    simpa only [BitVec.getLsbD_ushiftRight] using getLsbD_frameOf_upper x (4 + i) (by omega)
  simpa [Nat.shiftRight_eq_div_pow] using congrArg BitVec.toNat hshift

theorem nibbleSum_frameOf : nibbleSum (frameOf x) = nibbleSum (frameBase x) := nibbleSum_congr (frameOf_div_sixteen x)

end Checksum

/-- Settles O32: S is `nibbleSum` of F0. -/
theorem checksumIsComplementOfNibbleSum : Obligations.ChecksumIsComplementOfNibbleSum := by
  intro c x
  refine ⟨nibbleSum (frameBase (fieldsOf c x)), nibbleSum_eq _, ?_, nibbleSum_le _, frameOf_mod_sixteen _, ?_,
    frameOf_div_sixteen _⟩
  · rw [sum_nibbles, frameBase_mod_sixteen, zero_add]
  · rw [enc_frame, cksField_frameOf, checksum_eq_not]

/-- Settles O33: the stored checksum does not change S, so a receiver computes the S of F0 from the frame. -/
theorem checksumRoundTrip : Obligations.ChecksumRoundTrip := by
  intro c x
  have hmod := frameOf_mod_sixteen (fieldsOf c x)
  rw [← nibbleSum_frameOf] at hmod
  rw [enc_frame, ← nibbleSum_eq, sum_nibbles, hmod]
  refine ⟨rfl, ?_⟩
  omega

/-! ### The corrected state (R95, R98) -/

/-- `enc` reads the fan through MFQ and `fan_out`, and the temperature through the clamped integer. -/
theorem enc_congr {c : Config} {m : Mode} {f g : Fan} {t u : Temp} (sw : Swing) (hmfq : mfq c m f = mfq c m g)
    (hfan : fanOut m f = fanOut m g) (hci : ci c m t = ci c m u) : enc c ⟨m, f, sw, t⟩ = enc c ⟨m, g, sw, u⟩ := by
  simp only [enc, fieldsOf, hmfq, hfan, hci]

/-- R98: `enc` takes the corrected state to the same three results, for every TIE_MODE. -/
theorem enc_corrected (tie : TieMode) (x : Climate) :
    enc { params with tieMode := tie }
      { x with fan := (enc { params with tieMode := tie } x).fanOut, temp := (enc { params with tieMode := tie } x).tempOut }
      = enc { params with tieMode := tie } x :=
  enc_congr x.swing (mfq_fanOut _ x.mode x.fan) (fanOut_idem x.mode x.fan) (ci_tempOut tie x)

/-- Settles O36. -/
theorem encodingCorrectedStateIsIdempotent : Obligations.EncodingCorrectedStateIsIdempotent := by
  intro tie m f sw t
  exact ⟨enc_corrected tie ⟨m, f, sw, t⟩, frame_congr_fan sw t rfl⟩

/-- Settles O22. -/
theorem encodeCompletes : Obligations.EncodeCompletes := fun x r _ hidle => exec_idle (.encode x r) hidle

/-- What the host copies back after an ENCODE's writes (R148) is the corrected state. -/
theorem writeBack_writeResults (x : Climate) (e : EncResult) (r : Regs) :
    writeBack (out (r.writeResults x e)) x = { x with fan := e.fanOut, temp := e.tempOut } := by
  simp [writeBack]

/-- Settles O26: ENCODE's writes (O22) of the corrected state's results (O36) are those already made. -/
theorem writeBackIsAFixedPoint : Obligations.WriteBackIsAFixedPoint := by
  intro x r₁ r₂ s t hidle h
  rw [exec_idle _ hidle] at h
  cases h
  have henc : enc params { x with fan := (enc params x).fanOut, temp := (enc params x).tempOut } = enc params x :=
    enc_corrected .up x
  rw [exec_idle _ (by simpa using hidle)]
  simp only [writeBack_writeResults, henc]
  rfl

end Sys2Proof.Machine
end

section
/-! SUPPORT. The statements about the Pulse Sequencer (41_sequencer.md R100 to R104, R108, R109, R111): the sequence of a
frame, its levels and its length on air, and the edges that start it and move it on. -/
namespace Sys2Proof.Machine

/-! ### The sequence, index by index (R100 to R103) -/

section Elements
variable (f : Frame) {n k : Nat}

theorem elem_ofNat (c : Config) (h : n < 128) : elem c f (BitVec.ofNat 7 n) = elemAt c f n := by
  rw [elem, BitVec.toNat_ofNat, Nat.mod_eq_of_lt h]

/-- Inside the data marks stand at even indices, and the space after data bit k's mark carries data bit k (R102). -/
theorem elemAt_data (hlo : 2 ≤ n) (hhi : n ≤ 105) :
    elemAt params f n = some (if n % 2 = 0 then .bitMark else dataSpace params f ((n - 2) / 2)) := by
  have hdata : n ≤ 2 * params.frameBits + 1 := hhi
  rw [elemAt, if_neg (by omega), if_neg (by omega), if_pos hdata]
  split <;> rfl

theorem elem_bitMark (hk : k < 52) : elem params f (BitVec.ofNat 7 (2 + 2 * k)) = some .bitMark := by
  rw [elem_ofNat _ _ (by omega), elemAt_data _ (by omega) (by omega), if_pos (by omega)]

theorem elem_dataSpace (hk : k < 52) : elem params f (BitVec.ofNat 7 (3 + 2 * k)) = some (dataSpace params f k) := by
  rw [elem_ofNat _ _ (by omega), elemAt_data _ (by omega) (by omega), if_neg (by omega),
    show (3 + 2 * k - 2) / 2 = k by omega]

end Elements

/-- Settles O39: `pulseSequence_getElem?` reads the list as `elem`. -/
theorem sequenceIsHeaderDataFooter : Obligations.SequenceIsHeaderDataFooter := fun f =>
  ⟨rfl, rfl, fun _ hk => ⟨elem_bitMark f hk, elem_dataSpace f hk⟩, rfl, rfl, rfl, pulseSequence_length f,
    fun i => pulseSequence_getElem? f i.toNat⟩

/-! ### Marks and spaces (R104) -/

section Levels
variable (f : Frame)

theorem elLevel_elemWord (c : Config) (k : ElemKind) : elLevel (elemWord c k) = k.level := by
  rw [elLevel, elemWord, BitVec.extractLsb'_append_eq_of_le (by decide)]
  exact BitVec.extractLsb'_append_eq_right

/-- The levels do not depend on the frame, since both data spaces are spaces. -/
theorem levels_pulseSequence : (pulseSequence params f).map (fun k => elLevel (elemWord params k)) =
    (List.range 109).map fun i => BitVec.ofNat 1 ((i + 1) % 2) := by
  rw [map_pulseSequence]
  simp only [elLevel_elemWord, level_dataSpace]
  rfl

/-- So a level's elements are counted in the alternating list. -/
theorem length_filter_level (b : BitVec 1) :
    ((pulseSequence params f).filter fun k => elLevel (elemWord params k) == b).length =
      ((List.range 109).map fun i => BitVec.ofNat 1 ((i + 1) % 2)).count b := by
  rw [← levels_pulseSequence f, List.count, List.countP_map, List.countP_eq_length_filter]
  rfl

end Levels

/-- Settles O40: `levels_pulseSequence` alternates, and the counts are read off it. -/
theorem marksAndSpacesAlternate : Obligations.MarksAndSpacesAlternate := by
  intro f
  refine ⟨?_, (length_filter_level f 1#1).trans (by decide), (length_filter_level f 0#1).trans (by decide)⟩
  have hlevels := congrArg (List.map BitVec.toNat) (levels_pulseSequence f)
  rw [List.map_map, List.map_map] at hlevels
  exact hlevels.trans (by decide)

/-! ### The on-air time (R111) -/

section OnAir
variable (f : Frame)

theorem popcount_le : popcount f ≤ 52 := (List.length_filter_le _ _).trans (List.length_range (n := 52)).le

/-- The frame is sent from bit 51 down to bit 0 (R43). -/
theorem countP_sent_bits : (List.range 52).countP (fun k => f.getLsbD (51 - k)) = popcount f := by
  have hreverse : (List.range 52).map (51 - ·) = (List.range 52).reverse := by decide
  calc (List.range 52).countP (fun k => f.getLsbD (51 - k))
      = ((List.range 52).map (51 - ·)).countP (fun k => f.getLsbD k) := List.countP_map.symm
    _ = (List.range 52).countP (fun k => f.getLsbD k) := by rw [hreverse, List.countP_reverse]
    _ = popcount f := List.countP_eq_length_filter

/-- DUR is what the word of an element gives the transmitter (R70). -/
theorem us_pulseOf (o : Outputs) (c : Config) (k : ElemKind) : (pulseOf o (elemWord c k)).us = (k.dur c).toNat := by
  have hdur : elDur (elemWord c k) = k.dur c := BitVec.extractLsb'_append_eq_right
  rw [pulseOf, hdur]

theorem emissionUs_emission (o : Outputs) (c : Config) (l : List ElemKind) :
    emissionUs (emission o (l.map (elemWord c))) = onAirUs c l := by
  simp only [emissionUs, emission, List.map_map, onAirUs]
  exact congrArg List.sum (List.map_congr_left fun k _ => us_pulseOf o c k)

theorem dur_dataSpace (k : Nat) : ((dataSpace params f k).dur params).toNat = if f.getLsbD (51 - k) then 1540 else 548 := by
  rw [dataSpace, show params.frameBits - 1 - k = 51 - k from rfl]
  cases f.getLsbD (51 - k) <;> rfl

/-- Each data bit lasts a bit mark and the space of its value. -/
theorem sum_dur_data (ks : List Nat) :
    (ks.flatMap fun k => [511, ((dataSpace params f k).dur params).toNat]).sum =
      511 * ks.length + 1540 * ks.countP (fun k => f.getLsbD (51 - k))
        + 548 * (ks.length - ks.countP fun k => f.getLsbD (51 - k)) := by
  induction ks with
  | nil => rfl
  | cons k ks ih =>
    have hle : ks.countP (fun k => f.getLsbD (51 - k)) ≤ ks.length := List.countP_le_length
    rw [List.flatMap_cons, List.sum_append, ih, dur_dataSpace, List.length_cons, List.countP_cons]
    split <;> simp only [List.sum_cons, List.sum_nil] <;> omega

end OnAir

/-- Settles O41: header and footer last the same for every frame, the data as `sum_dur_data` says. -/
theorem onAirTimeOfSequence : Obligations.OnAirTimeOfSequence := by
  intro f o
  refine ⟨popcount_le f, ?_⟩
  have hmark : (ElemKind.bitMark.dur params).toNat = 511 := rfl
  rw [emissionUs_emission, onAirUs, map_pulseSequence, List.sum_append, List.sum_append, hmark, sum_dur_data,
    countP_sent_bits, List.length_range]
  have hheader : [(ElemKind.hdrMark.dur params).toNat, (ElemKind.hdrSpace.dur params).toNat].sum = 511 + 3492 := rfl
  have hfooter : [(ElemKind.ftrMark.dur params).toNat, (ElemKind.ftrSpace.dur params).toNat,
    (ElemKind.endMark.dur params).toNat].sum = 511 + 3492 + 511 := rfl
  omega

/-! ### Start and progress of a sequence (R108, R109) -/

/-- Settles O23: the SEQUENCE case of `exec_idle`. -/
theorem sequenceCompletes : Obligations.SequenceCompletes := fun f r _ hidle => exec_idle (.sequence f r) hidle

/-- An element is accepted from the registers before the edge: using up the sample leaves them. -/
theorem deliver_consume (s : State) : s.consume.deliver =
    { s.consume with regs := s.regs.advance, trace := s.trace ++ [(out s.regs).elWord] } := by
  rw [State.deliver, consume_regs, consume_trace]

/-- Settles O43: a delivering edge advances SEQ_IDX, and at 108 that ends the run. -/
theorem elementAcceptance : Obligations.ElementAcceptance := by
  intro s hrun hrst
  refine ⟨fun hready hlast => ?_, fun hready hnext => ?_, step_stall hrst hrun⟩
  · rw [step_deliver hrst hrun hready, deliver_consume, advance_last _ hlast]
    rfl
  · rw [step_deliver hrst hrun hready, deliver_consume, advance_next _ hnext]

end Sys2Proof.Machine
end

section
/-! SUPPORT. The statements about TRANSMIT, NOP and the clock step (42_transmit_nop.md R115 to R120): what the two
commands write, what a step does to the registers case by case, and what it adds to the element trace. -/
namespace Sys2Proof.Machine

/-! ### TRANSMIT and NOP (R115 to R117) -/

/-- Settles O21: the NOP case of `exec_idle`. -/
theorem nopCompletes : Obligations.NopCompletes := fun r _ hidle => exec_idle (.nop r) hidle

/-- Settles O24: the TRANSMIT case of `exec_idle`. -/
theorem transmitCompletes : Obligations.TransmitCompletes := fun x r _ hidle => exec_idle (.transmit x r) hidle

/-- Settles O25: in IDLE the writes of ENCODE (O22) and SEQUENCE (O23) together are TRANSMIT's (O24); in RUN no command
writes. -/
theorem transmitIsEncodeThenSequence : Obligations.TransmitIsEncodeThenSequence := by
  intro x r₁ r₂ r₃ s t hencode
  cases hphase : s.regs.phase with
  | idle =>
    rw [encodeCompletes x r₁ s hphase] at hencode
    cases hencode
    rw [transmitCompletes x r₂ s hphase]
    exact sequenceCompletes _ r₃ _ hphase
  | run =>
    rw [exec_run _ hphase] at hencode
    cases hencode
    rw [exec_run _ hphase, exec_run _ hphase]

/-! ### The registers after a step (R119) -/

section Registers
variable {s t u : State} {i : Instr}

/-- A step has one answer. -/
theorem regs_eq_of_step (ht : step s = .next t) (hu : step s = .next u) : t.regs = u.regs := by
  cases ht.symm.trans hu
  rfl

/-- Operands whose codes are the slices of a format S word are the ones the decoder reads from it (R55, R56). -/
theorem eq_climateField {x : Climate} {w : CmdWord} (hmode : x.mode.code = w.extractLsb' 0 2)
    (hfan : x.fan.code = w.extractLsb' 2 2) (hswing : x.swing.code = w.extractLsb' 4 1)
    (htemp : x.temp = w.extractLsb' 8 16) : x = climateField w := by
  rw [climateField, ← hmode, ← hfan, ← hswing, ← htemp, modeOf_code, fanOf_code, swingOf_code]

/-- At an accepting edge the registers become what the decoded command's meaning makes of the state (R118, O14). -/
theorem regs_of_step_command (hrst : s.sample.rst = false) (hidle : s.regs.phase = .idle)
    (hvalid : s.sample.cmdValid = true) (ht : step s = .next t) (hdec : decodeWord s.sample.cmdWord = i)
    (hexec : s.consume.regs.phase = .idle → exec i s.consume = .next u) : t.regs = u.regs := by
  obtain ⟨hstep, hregs, -⟩ := stepRunsOfferedCommand s i hrst hvalid hidle hdec
  exact regs_eq_of_step ht (hstep.trans (hexec (hregs ▸ hidle)))

end Registers

/-- Settles O13: an accepted command writes what its completion says (O21 to O24), and an edge in RUN what an element's
acceptance says (O43). -/
theorem stepFollowsClockStep : Obligations.StepFollowsClockStep := by
  intro s
  obtain ⟨t, ht⟩ := exists_step_eq_next s
  refine ⟨t, ht, fun hrst => regs_eq_of_step ht (step_reset hrst), fun hrst hidle hvalid => ?_,
    fun hrst hidle hvalid => ⟨fun hop => ?_, fun x hmode hfan hswing htemp => ?_, fun hop => ?_⟩, fun hrst hrun => ?_⟩
  · exact (regs_eq_of_step ht (step_idle hrst hidle hvalid)).trans (consume_regs s)
  · rw [regs_of_step_command hrst hidle hvalid ht (decodeWord_of_op_zero hop) (nopCompletes _ _), consume_regs]
  · obtain rfl := eq_climateField hmode hfan hswing htemp
    constructor <;> intro hop
    · rw [regs_of_step_command hrst hidle hvalid ht (decodeWord_of_op_one hop) (encodeCompletes _ _ _), consume_regs]
    · exact regs_of_step_command hrst hidle hvalid ht (decodeWord_of_op_three hop) (transmitCompletes _ _ _)
  · rw [regs_of_step_command hrst hidle hvalid ht (decodeWord_of_op_two hop) (sequenceCompletes _ _ _), consume_regs,
      frameField]
  · obtain ⟨hlast, hnext, hstall⟩ := elementAcceptance s hrun hrst
    exact ⟨fun hready => (regs_eq_of_step ht (hstall hready)).trans (consume_regs s),
      fun hready hidx => regs_eq_of_step ht (hlast hready hidx),
      fun hready hidx => regs_eq_of_step ht (hnext hready hidx)⟩

/-! ### The element trace after a step (R120) -/

/-- No command delivers an element. -/
theorem exec_trace {i : Instr} {s t : State} (h : exec i s = .next t) : t.trace = s.trace := by
  cases hphase : s.regs.phase with
  | idle => rw [exec_idle i hphase] at h; cases h; rfl
  | run => rw [exec_run i hphase] at h; cases h; rfl

/-- Settles O45: of the edges of `step_cases` only the one that accepts an element adds to the trace, and `el_valid` is 1
in RUN alone. -/
theorem traceGainsDeliveredElements : Obligations.TraceGainsDeliveredElements := by
  intro s t hstep
  have hvalid_iff : (out s.regs).elValid = true ↔ s.regs.phase = .run := beq_iff_eq
  refine ⟨fun hrst hready hvalid => ?_, fun hnone => ?_⟩
  · rw [step_deliver hrst (hvalid_iff.mp hvalid) hready, deliver_consume] at hstep
    cases hstep
    rfl
  · obtain ⟨-, hs⟩ | ⟨-, -, -, hs⟩ | ⟨-, -, -, hs⟩ | ⟨hrst, hrun, hready, -⟩ | ⟨-, -, -, hs⟩ := step_cases s
    case inr.inl => exact (exec_trace (hs.symm.trans hstep)).trans (consume_trace s)
    case inr.inr.inr.inl => simp [hrst, hready, hvalid_iff.mpr hrun] at hnone
    all_goals cases hs.symm.trans hstep; exact consume_trace s

end Sys2Proof.Machine
end

section
/-! SUPPORT. The statement about exceptions (60_exceptions.md R125): an edge and a command answer a next state in IDLE
and in RUN alike. -/
namespace Sys2Proof.Machine

/-! ### A next state in every phase (R119, R125) -/

/-- Every command has a next state: the one of its meaning in IDLE, and its own state in RUN, where the command port is
not ready. -/
theorem exists_exec_eq_next (i : Instr) (s : State) : ∃ t, exec i s = .next t := by
  cases hphase : s.regs.phase with
  | idle => exact ⟨_, exec_idle i hphase⟩
  | run => exact ⟨s, exec_run i hphase⟩

/-- Settles O16: every edge of `step_cases` and every command has a next state. -/
theorem nothingFaultsOrIsRefused : Obligations.NothingFaultsOrIsRefused :=
  ⟨exists_step_eq_next, exists_exec_eq_next⟩

end Sys2Proof.Machine
end

section
/-! SUPPORT. The statements about reset and the hazards at the command port (70_reset_and_hazards.md R140 to R152): an edge
with `rst` = 1, and the edge at which a command is accepted after a sequence. -/
namespace Sys2Proof.Machine

/-! ### The reset edge (R140, R141, R143) -/

/-- Settles O8: `step_reset` from every state. -/
theorem resetEdgeGivesReset : Obligations.ResetEdgeGivesReset := fun _ hrst => ⟨_, step_reset hrst, rfl, rfl⟩

/-- Settles O9: a delivery takes `rst` = 0, and `step_reset` writes the registers alone. -/
theorem resetBeatsHandshakes : Obligations.ResetBeatsHandshakes :=
  fun s hrst => ⟨by simp [State.delivered, hrst], step_reset hrst⟩

/-! ### The command after a sequence (R145, R152) -/

section NextCommand
variable {s t u : State} {i : Instr} {n : Nat} {inp : Inputs} {ins rest : List Inputs}

/-- A run of one edge is a step. -/
theorem run_one (s : State) : Host.Core.run Sys2Proof.core 1 s = step s := by
  obtain ⟨t, ht⟩ := exists_step_eq_next s
  exact (run_succ 0 ht).trans ht.symm

/-- A run that ends in IDLE with a command offered next accepts it with one more edge. -/
theorem run_then_command (hrun : Host.Core.run Sys2Proof.core n s = .next t) (hidle : t.regs.phase = .idle)
    (hinputs : t.inputs = inp :: rest) (hrst : inp.rst = false) (hvalid : inp.cmdValid = true) :
    Host.Core.run Sys2Proof.core (n + 1) s = exec (decodeWord inp.cmdWord) { t with inputs := rest } := by
  have hsample := sample_of_inputs hinputs
  rw [run_add _ _ _ _ hrun, run_one, step_command (hsample ▸ hrst) hidle (hsample ▸ hvalid), hsample,
    consume_of_inputs hinputs]

/-- A command leaves every field of the state but the registers, and what it writes there does not depend on the samples
to come. -/
theorem exec_with_inputs (l : List Inputs) (h : exec i s = .next u) :
    exec i { s with inputs := l } = .next { s with inputs := l, regs := u.regs } := by
  cases hphase : s.regs.phase with
  | idle => rw [exec_idle i hphase] at h; cases h; exact exec_idle i hphase
  | run => rw [exec_run i hphase] at h; cases h; exact exec_run i hphase

/-- A command that starts a sequence starts it at index 0 (R108, R115). -/
theorem seqIdx_of_exec_run (hidle : s.regs.phase = .idle) (h : exec i s = .next u) (hrun : u.regs.phase = .run) :
    u.regs.seqIdx = 0#7 := by
  rw [exec_idle i hidle] at h
  cases h
  cases i with
  | nop | encode => simp [hidle] at hrun
  | sequence | transmit => rfl

/-- With `el_ready` = 1 throughout, a sequence takes 109 edges (R100, R110). -/
theorem run_sequence_ready (hrun : s.regs.phase = .run) (hidx : s.regs.seqIdx = 0#7) (hinputs : s.inputs = ins ++ rest)
    (hlength : ins.length = 109) (hready : ∀ j ∈ ins, j.rst = false ∧ j.elReady = true) :
    Host.Core.run Sys2Proof.core 109 s = .next { s with
      regs := { s.regs with phase := .idle, seqIdx := 0#7 }
      inputs := rest
      trace := s.trace ++ (pulseSequence params s.regs.frame).map (elemWord params) } := by
  obtain rfl | ⟨ins, final, rfl⟩ := List.eq_nil_or_concat' ins
  · cases hlength
  obtain ⟨hbefore, hfinal⟩ := List.forall_mem_append.mp hready
  obtain ⟨hfinalRst, hfinalReady⟩ := hfinal final (List.mem_singleton_self _)
  have hlength' : ins.length = 108 := by simpa using hlength
  have hnoReset : noReset ins = true := by simpa [noReset] using fun j hj => (hbefore j hj).1
  have hedges : readyEdges ins = 108 := hlength' ▸ List.countP_eq_length.mpr fun j hj => (hbefore j hj).2
  have hdelivered := wholeSequenceIsDelivered s ins rest final hrun hidx (by simpa using hinputs) hnoReset hedges
    hfinalRst hfinalReady
  rwa [hlength'] at hdelivered

end NextCommand

/-- The last element of every sequence is END_MARK (R103). -/
theorem out_elWord_last {r : Regs} (hrun : r.phase = .run) (hlast : r.seqIdx = 108#7) : (out r).elWord = 0x1F1FF#17 := by
  have helem : elem params r.frame r.seqIdx = some .endMark := hlast ▸ rfl
  rw [out_elWord_run r hrun, elemWordAt_of_elem helem]
  rfl

/-- Settles O48: the last element ends the run (O43), and the held command is offered in IDLE. -/
theorem heldCommandIsAcceptedNext : Obligations.HeldCommandIsAcceptedNext := by
  intro s v e a w rest hrun hlast hinputs
  have hsample := sample_of_inputs hinputs
  obtain ⟨hdeliver, -, -⟩ := elementAcceptance s hrun (by rw [hsample])
  have hstep := hdeliver (by rw [hsample]) hlast
  rw [consume_of_inputs hinputs, out_elWord_last hrun hlast, ← run_one] at hstep
  exact run_then_command (inp := ⟨false, true, w, e⟩) hstep rfl rfl rfl rfl

/-- Settles O49: one edge accepts the command, 109 deliver its sequence (O47), and the next command is offered in IDLE. -/
theorem nextCommandAfterOneHundredTenEdges : Obligations.NextCommandAfterOneHundredTenEdges := by
  intro s u i e ins rest next hidle hinputs hexec hrun hlength hready hrst hvalid
  have hsample := sample_of_inputs hinputs
  have hstart : step s = .next { s with inputs := ins ++ next :: rest, regs := u.regs } := by
    rw [step_command (by rw [hsample]) hidle (by rw [hsample]), hsample, decodeWord_encodeInstr, consume_of_inputs hinputs]
    exact exec_with_inputs _ hexec
  have hidx : u.regs.seqIdx = 0#7 := seqIdx_of_exec_run hidle hexec hrun
  have hsequence := (run_succ 109 hstart).trans (run_sequence_ready hrun hidx rfl hlength hready)
  exact run_then_command hsequence rfl rfl hrst hvalid

end Sys2Proof.Machine
end
